-- ==== Sys2Proof/Word.lean ====
section
/-! DEFINITION. The data types of CLAES: bytes, bus words, addresses, blocks, key-schedule words, round keys and table shapes (spec/00_scope.md R11-R14, spec/20_memory.md R60, spec/42_key_schedule.md R160). -/

namespace Sys2Proof

/-- A byte; read as a GF(2^8) element, bit i is the coefficient of x^i (00_scope.md R12, 40_field.md R110). -/
abbrev Byte := BitVec 8

/-- A bus word, also the width of a command word (20_memory.md R60, 30_encoding.md R90). -/
abbrev Word := BitVec 32

/-- A byte address of the bus slave port (20_memory.md R60, R70). -/
abbrev Addr := BitVec 16

/-- A 16-byte array in block byte order; grid cell s[r][c] is byte r + 4c (10_state.md R30). -/
abbrev Block := Vector Byte 16

/-- A 4-byte word of the key schedule (42_key_schedule.md R160). -/
abbrev KeyWord := Vector Byte 4

/-- The round keys RK[0..10] (10_state.md R34). -/
abbrev RoundKeys := Vector Block 11

/-- A 256-byte substitution table, row = high hex digit, column = low hex digit (41_round_transforms.md R130). -/
abbrev Table := Vector (Vector Byte 16) 16

/-- `zeros(16)` (00_scope.md R13). -/
def Block.zero : Block := Vector.replicate 16 0

/-- Round keys of zero bytes: what the model's reset state puts in the unobservable RK file (log entry 3). -/
def RoundKeys.zero : RoundKeys := Vector.replicate 11 Block.zero

end Sys2Proof
end

