-- ==== Sys2Proof/Config.lean ====
section
/-! DEFINITION. The implementation parameters of spec/00_scope.md R10. BUF_BYTES is a model argument, held in State as a BufSize; ID_VALUE and the addresses are fixed values of this hardware. LAT and LAT_RESET have no number here: the inputs of State say when the sequencer moves (log entry 5). No free value is an opaque constant: each one the spec leaves open is plain data of State or of an input (log entries 2 to 6). -/

namespace Sys2Proof

/-- The parameter BUF_BYTES, a multiple of 16 with 32 <= BUF_BYTES <= 61440 (R10), counted in 16-byte steps above 32.
Every value of the type is a legal size, and every legal size is a value. -/
abbrev BufSize := Fin 3839

/-- BUF_BYTES. -/
def BufSize.bytes (n : BufSize) : Nat := 32 + 16 * n.val

/-- The reference value BUF_BYTES = 4096 (R10). -/
def Config.referenceBufSize : BufSize := 254

/-- ID_VALUE (R10, 10_state.md R24). -/
def Config.idValue : Word := 0x41455331

end Sys2Proof
end

