-- ==== Sys2Proof/Machine/State.lean ====
section
/-! DEFINITION. The state of CLAES (spec/10_state.md R20), what the outside world still has to do to it, and the state right after reset (R40). -/

namespace Sys2Proof.Machine

/-- The sequencer state SEQ (10_state.md R21).
STATUS.BUSY is 1 exactly when it is not `idle`, so BUSY has no field of its own. -/
inductive Seq
  /-- The reset self-check is running. -/
  | selftest
  /-- No command is running. -/
  | idle
  /-- The command whose command word is `w` is running. -/
  | run (w : Word)
  deriving DecidableEq, Repr

/-- The error codes of STATUS.ERR that have a meaning (60_exceptions.md R270).
The codes 9 to 15 are "never written", so they have no constructor. -/
inductive ErrCode
  | none
  | invalidBlockLength
  | invalidMacInputLength
  | tamperedCiphertext
  | sboxInitFailure
  | illegalCommand
  | keyNotExpanded
  | lengthOutOfRange
  | counterOverflow
  deriving DecidableEq, Repr

/-- One bus transaction the host issues, always of 4 bytes (20_memory.md R61, R62). -/
inductive BusRequest
  | read (addr : Addr)
  | write (addr : Addr) (data : Word)
  deriving DecidableEq, Repr

/-- The answer to one bus transaction: rsp_rdata and rsp_err (20_memory.md R60). -/
structure Response where
  data : Word
  err : Bool
  deriving DecidableEq, Repr

/-- What the spec leaves open when rst_n is asserted (70_reset_and_hazards.md R300, 10_state.md R40).
`landed` lists the BUF bytes of an abandoned command that hold the value its rule gives them; the others keep their old value.
`rk` is the unspecified content of RK after reset. -/
structure ResetDraw where
  landed : List Nat
  rk : RoundKeys
  deriving DecidableEq, Repr

/-- One event of the total order of 20_memory.md R80 that is still to come. -/
inductive Input
  /-- The host's next bus transaction. -/
  | bus (r : BusRequest)
  /-- The sequencer's turn: a completion if a command or the self-check is running. -/
  | sequencer
  /-- rst_n is asserted and released. -/
  | reset (draw : ResetDraw)
  deriving DecidableEq, Repr

/-- The message buffer: pairs (i, BUF[i]), i strictly rising, none equal to what an unlisted byte reads as. -/
abbrev Memory := List Host.Cell

/-- The state of one CLAES instance.
The fields up to `rom` are the architectural state of 10_state.md R20; `bufSize` is the parameter BUF_BYTES; `inputs` and `responses` are the model's own record of the outside world (log entry 5). -/
structure State where
  /-- SEQ (R21). -/
  seq : Seq
  /-- CTRL.IE (R25). -/
  ie : Bool
  /-- STATUS.DONE (R26). -/
  done : Bool
  /-- STATUS.OVR (R26). -/
  ovr : Bool
  /-- STATUS.RK_VALID (R26, R35). -/
  rkValid : Bool
  /-- STATUS.SBOX_OK (R26). -/
  sboxOk : Bool
  /-- STATUS.ERR (R26). -/
  err : ErrCode
  /-- CMD readback: the last accepted command word (R27). -/
  cmd : Word
  /-- LEN (R28). -/
  len : Word
  /-- GF.A (R29). -/
  gfA : Byte
  /-- GF.B (R29). -/
  gfB : Byte
  /-- GF.P (R29). -/
  gfP : Byte
  /-- CTR_LO (R33). -/
  ctrLo : Word
  /-- CTR_HI (R33). -/
  ctrHi : Word
  /-- KEY (R31). -/
  key : Block
  /-- STATE (R30). -/
  state : Block
  /-- TAG (R32). -/
  tag : Block
  /-- RK[0..10] (R34). -/
  rk : RoundKeys
  /-- BUF (R36). -/
  buf : Memory
  /-- SBOX and SBOX_INV (R39); no step writes them. -/
  rom : Rom
  /-- BUF_BYTES (00_scope.md R10); no step writes it. -/
  bufSize : BufSize
  /-- The events still to come, the next one first. -/
  inputs : List Input
  /-- The answers the host has taken, the latest first. -/
  responses : List Response
  deriving DecidableEq, Repr

/-- The reasons a step can stop the machine with a fault: none.
CLAES answers a bad access with a bus error response and a failed command with STATUS.ERR (60_exceptions.md R260), and both are next states.
Nobody raises a fault, which is safe. -/
inductive Fault
  deriving DecidableEq, Repr

/-- The reasons a step can answer that it has no meaning for a command. -/
inductive Refusal
  /-- Raised by exec's arm of a command without a meaning, none at present: safe, since nothing is proved of such a run. -/
  | notModelled (mnemonic : String)
  deriving DecidableEq, Repr

/-- The state rst_n leaves (10_state.md R40, 70_reset_and_hazards.md R300): every register and field at its reset value, the self-check about to run.
The arguments are what reset does not fix: the part's ROM and BUF_BYTES, what BUF holds, the unspecified RK contents, and the record of the outside world. -/
def State.powerUp (rom : Rom) (bufSize : BufSize) (buf : Memory) (rk : RoundKeys) (inputs : List Input)
    (responses : List Response) : State where
  seq := .selftest
  ie := false
  done := false
  ovr := false
  rkValid := false
  sboxOk := false
  err := .none
  cmd := 0
  len := 0
  gfA := 0
  gfB := 0
  gfP := 0
  ctrLo := 0
  ctrHi := 0
  key := Block.zero
  state := Block.zero
  tag := Block.zero
  rk := rk
  buf := buf
  rom := rom
  bufSize := bufSize
  inputs := inputs
  responses := responses

/-- The machine right after reset: a correct part of the reference size, nothing written in BUF, nothing scheduled. -/
def State.reset : State :=
  State.powerUp Rom.standard Config.referenceBufSize [] RoundKeys.zero [] []

end Sys2Proof.Machine
end

