-- ==== Sys2Proof/Machine/Flags.lean ====
section
/-! DEFINITION. The STATUS fields: error codes, BUSY, the interrupt, the STATUS bus word and its W1C write (spec/10_state.md R21, R26, R38, R41; spec/60_exceptions.md R270, R280). -/

namespace Sys2Proof.Machine

/-- The 4-bit code of STATUS.ERR (60_exceptions.md R270). -/
def ErrCode.code : ErrCode → BitVec 4
  | .none => 0
  | .invalidBlockLength => 1
  | .invalidMacInputLength => 2
  | .tamperedCiphertext => 3
  | .sboxInitFailure => 4
  | .illegalCommand => 5
  | .keyNotExpanded => 6
  | .lengthOutOfRange => 7
  | .counterOverflow => 8

/-- STATUS.BUSY: 1 when SEQ is not IDLE (10_state.md R21). -/
def State.busy (s : State) : Bool := s.seq ≠ .idle

/-- The interrupt output: "irq = STATUS.DONE and CTRL.IE" (60_exceptions.md R280). -/
def State.irq (s : State) : Bool := s.done && s.ie

/-- One flag as a bit. -/
def flagBit (b : Bool) : BitVec 1 := BitVec.ofBool b

/-- The STATUS bus word of 10_state.md R26, most significant field first: 31:12 res0, ERR, 7:5 res0, SBOX_OK, RK_VALID, OVR, DONE, BUSY. -/
def State.statusWord (s : State) : Word :=
  0#20 ++ s.err.code ++ 0#3 ++ flagBit s.sboxOk ++ flagBit s.rkValid ++ flagBit s.ovr ++ flagBit s.done ++
    flagBit s.busy

/-- The CTRL bus word of 10_state.md R25. -/
def State.ctrlWord (s : State) : Word := 0#31 ++ flagBit s.ie

/-- A host write to STATUS: W1C of DONE (bit 1) and OVR (bit 2), and nothing else (10_state.md R26). -/
def State.writeStatus (s : State) (v : Word) : State :=
  { s with done := s.done && !v.getLsbD 1, ovr := s.ovr && !v.getLsbD 2 }

/-- A host write to CTRL: IE takes bit 0, the rest is res0 (10_state.md R25). -/
def State.writeCtrl (s : State) (v : Word) : State := { s with ie := v.getLsbD 0 }

end Sys2Proof.Machine
end

