-- ==== Sys2Proof/Machine/Operands.lean ====
section
/-! DEFINITION. How operands are put together: byte lanes of a bus word (spec/20_memory.md R63), words of a byte array, the GF register (spec/10_state.md R29), the 64-bit counter (R33), lengths and blocks (spec/00_scope.md R13, spec/44_modes.md R200, R203). -/

namespace Sys2Proof.Machine

/-- The bus word that carries byte(a + i) in bits [8i+7:8i] (20_memory.md R63). -/
def wordOfBytes (b0 b1 b2 b3 : Byte) : Word := b3 ++ b2 ++ b1 ++ b0

/-- Lane i of a bus word: bits [8i+7:8i] (20_memory.md R63). -/
def byteLane (v : Word) (i : Nat) : Byte := v.extractLsb' (8 * i) 8

/-- Bus word i of a 16-byte register: its bytes 4i .. 4i+3. -/
def blockWord (b : Block) (i : Fin 4) : Word :=
  wordOfBytes b[4 * i.val] b[4 * i.val + 1] b[4 * i.val + 2] b[4 * i.val + 3]

/-- A 16-byte register after a write of v to its bus word i. -/
def setBlockWord (b : Block) (i : Fin 4) (v : Word) : Block :=
  Vector.ofFn fun j => if j.val / 4 = i.val then byteLane v (j.val % 4) else b[j]

/-- The GF bus word: bits 31:24 res0, then P, B, A (10_state.md R29). -/
def State.gfWord (s : State) : Word := 0#8 ++ s.gfP ++ s.gfB ++ s.gfA

/-- The 64-bit counter `C = CTR_HI * 2^32 + CTR_LO`, as a number (10_state.md R33). -/
def State.counter (s : State) : Nat := s.ctrHi.toNat * 2 ^ 32 + s.ctrLo.toNat

/-- BUF_BYTES of this part. -/
def State.bufBytes (s : State) : Nat := s.bufSize.bytes

/-- LEN as a byte count (10_state.md R28). -/
def State.length (s : State) : Nat := s.len.toNat

/-- `pad16(n)`: the smallest multiple of 16 that is at least n (00_scope.md R13). -/
def pad16 (n : Nat) : Nat := 16 * ((n + 15) / 16)

/-- The block count nb of a message of n bytes (44_modes.md R200). -/
def blockCount (n : Nat) : Nat := pad16 n / 16

/-- `overflow(C, nb)`: a counter value above 2^64 - 1 would be used (44_modes.md R203). -/
def counterOverflows (c nb : Nat) : Bool := 1 ≤ nb ∧ c + nb - 1 > 2 ^ 64 - 1

/-- A message with its trailing zero bytes (44_modes.md R200, R202). -/
def padMessage (m : List Byte) : List Byte := m ++ List.replicate (pad16 m.length - m.length) 0

/-- The block at the head of a byte string; every caller gives at least 16 bytes. -/
def headBlock (m : List Byte) : Block := Vector.ofFn fun i : Fin 16 => m.getD i.val 0

/-- The first n 16-byte blocks of a byte string. -/
def toBlocks : Nat → List Byte → List Block
  | 0, _ => []
  | n + 1, m => headBlock m :: toBlocks n (m.drop 16)

/-- The byte string made of a list of blocks. -/
def ofBlocks : List Block → List Byte
  | [] => []
  | b :: bs => b.toList ++ ofBlocks bs

/-- `xor16` (00_scope.md R13). -/
def xor16 (a b : Block) : Block := Vector.ofFn fun i => a[i] ^^^ b[i]

end Sys2Proof.Machine
end

