-- ==== Sys2Proof/Machine/Ops.lean ====
section
/-! DEFINITION. The shared operations: BUF (spec/10_state.md R36), acceptance and completion of a command (spec/60_exceptions.md R261, R264), the evaluation order with its errors (R263, R265) and the writes several commands share. -/

namespace Sys2Proof.Machine

/-- What a BUF byte that nothing has written reads as (log entry 2). -/
def unwrittenByte : Byte := 0

/-- `BUF[i]`. -/
def Memory.read : Memory → Nat → Byte
  | [], _ => unwrittenByte
  | (k, v) :: m, i => if k = i then v else Memory.read m i

/-- `BUF[i] <- b`, keeping the canonical form. -/
def Memory.write : Memory → Nat → Byte → Memory
  | [], i, b => if b = unwrittenByte then [] else [(i, b)]
  | (k, v) :: m, i, b =>
    if i < k then (if b = unwrittenByte then (k, v) :: m else (i, b) :: (k, v) :: m)
    else if i = k then (if b = unwrittenByte then m else (i, b) :: m)
    else (k, v) :: Memory.write m i b

/-- `BUF[i .. i + len(bs)) <- bs`. -/
def Memory.writeBytes : Memory → Nat → List Byte → Memory
  | m, _, [] => m
  | m, i, b :: bs => Memory.writeBytes (Memory.write m i b) (i + 1) bs

/-- `BUF[i .. i + n)`. -/
def Memory.readBytes (m : Memory) (i n : Nat) : List Byte := (List.range n).map fun j => m.read (i + j)

/-- The canonical form: positions strictly rising, no entry equal to what an unlisted byte reads as. -/
abbrev Memory.wf (m : Memory) : Prop :=
  List.Pairwise (fun c d : Host.Cell => c.1 < d.1) m ∧ ∀ c ∈ m, c.2 ≠ unwrittenByte

/-- The message at the start of BUF: `BUF[0..LEN)`. -/
def State.message (s : State) : List Byte := s.buf.readBytes 0 s.length

/-- Acceptance of a CMD write of w (60_exceptions.md R261): the readback, DONE and ERR cleared, BUSY set with SEQ. -/
def State.accept (s : State) (w : Word) : State :=
  { s with cmd := w, done := false, err := .none, seq := .run w }

/-- Completion with result code e (60_exceptions.md R264): ERR written, BUSY cleared with SEQ, DONE set.
A raised error ends its command by this same step (00_scope.md R16). -/
def State.complete (s : State) (e : ErrCode) : State :=
  { s with err := e, done := true, seq := .idle }

/-- The first failing check of a list, in order (60_exceptions.md R263, R275). -/
def firstError : List (Bool × ErrCode) → Option ErrCode
  | [] => none
  | (fails, e) :: rest => if fails then some e else firstError rest

/-- A running command (60_exceptions.md R263): SBOX_OK first, then the command's own checks in their order, then its pseudocode.
`body` is the pseudocode: from the state at acceptance to the state it writes and the code it ends with.
An error found by a check writes nothing but the completion (R265). -/
def runCommand (s : State) (checks : List (Bool × ErrCode)) (body : State → State × ErrCode) :
    Host.Outcome State Fault Refusal :=
  match firstError ((!s.sboxOk, .sboxInitFailure) :: checks) with
  | some e => .next (s.complete e)
  | none => .next ((body s).1.complete (body s).2)

/-- A running command whose word is ILLEGAL (60_exceptions.md R272): step 2 of R263, after the SBOX_OK check. -/
def runIllegal (s : State) : Host.Outcome State Fault Refusal :=
  runCommand s [(true, .illegalCommand)] fun s => (s, .none)

/-- `GF.P <- p` (10_state.md R29). -/
def State.writeGfP (s : State) (p : Byte) : State := { s with gfP := p }

/-- `STATE <- b`, all 16 bytes at once (10_state.md R30). -/
def State.writeState (s : State) (b : Block) : State := { s with state := b }

/-- `TAG <- b` (10_state.md R32). -/
def State.writeTag (s : State) (b : Block) : State := { s with tag := b }

/-- `LEN <- n` (10_state.md R28); every command writes a value below 2^32. -/
def State.writeLen (s : State) (n : Nat) : State := { s with len := BitVec.ofNat 32 n }

/-- `BUF[0..len(bs)) <- bs`. -/
def State.writeMessage (s : State) (bs : List Byte) : State := { s with buf := s.buf.writeBytes 0 bs }

/-- `RK <- rk ; STATUS.RK_VALID <- 1` (10_state.md R35). -/
def State.writeRoundKeys (s : State) (rk : RoundKeys) : State := { s with rk := rk, rkValid := true }

end Sys2Proof.Machine
end

