-- ==== Sys2Proof/Machine/Bus.lean ====
section
/-! DEFINITION. The bus slave port: the address map, reads and writes, and what they do while BUSY = 1 (spec/20_memory.md R60-R75, spec/10_state.md R22-R36, spec/70_reset_and_hazards.md R310-R314). -/

namespace Sys2Proof.Machine

/-- What an aligned mapped address names (20_memory.md R70). -/
inductive Target
  | id
  | ctrl
  | status
  | cmd
  | len
  | gf
  | ctrLo
  | ctrHi
  /-- Bus word i of KEY. -/
  | key (i : Fin 4)
  /-- Bus word i of STATE. -/
  | state (i : Fin 4)
  /-- Bus word i of TAG. -/
  | tag (i : Fin 4)
  /-- Bus word i of RK[k]. -/
  | rk (k : Fin 11) (i : Fin 4)
  /-- The bus word of BUF that starts at BUF[i]. -/
  | buf (i : Nat)
  deriving DecidableEq, Repr

/-- The address map of 20_memory.md R70, for an aligned offset; `none` is an unmapped address (R71). -/
def mapOffset (bufBytes n : Nat) : Option Target :=
  if n = 0x0000 then some .id
  else if n = 0x0004 then some .ctrl
  else if n = 0x0008 then some .status
  else if n = 0x000C then some .cmd
  else if n = 0x0010 then some .len
  else if n = 0x0014 then some .gf
  else if n = 0x0018 then some .ctrLo
  else if n = 0x001C then some .ctrHi
  else if h : 0x0020 ≤ n ∧ n < 0x0030 then some (.key ⟨(n - 0x0020) / 4, by omega⟩)
  else if h : 0x0030 ≤ n ∧ n < 0x0040 then some (.state ⟨(n - 0x0030) / 4, by omega⟩)
  else if h : 0x0040 ≤ n ∧ n < 0x0050 then some (.tag ⟨(n - 0x0040) / 4, by omega⟩)
  else if h : 0x0100 ≤ n ∧ n < 0x01B0 then
    some (.rk ⟨(n - 0x0100) / 16, by omega⟩ ⟨(n - 0x0100) % 16 / 4, by omega⟩)
  else if 0x1000 ≤ n ∧ n < 0x1000 + bufBytes then some (.buf (n - 0x1000))
  else none

/-- The register or BUF word a request reaches; `none` is a bus error, for a misaligned address (R62) or an unmapped one (R71). -/
def State.target (s : State) (a : Addr) : Option Target :=
  if a.toNat % 4 ≠ 0 then none else mapOffset s.bufBytes a.toNat

/-- The value of a mapped word, as a read returns it while BUSY = 0 (10_state.md R24-R36).
RK reads 0 while RK_VALID = 0 (R34). -/
def State.readTarget (s : State) : Target → Word
  | .id => Config.idValue
  | .ctrl => s.ctrlWord
  | .status => s.statusWord
  | .cmd => s.cmd
  | .len => s.len
  | .gf => s.gfWord
  | .ctrLo => s.ctrLo
  | .ctrHi => s.ctrHi
  | .key i => blockWord s.key i
  | .state i => blockWord s.state i
  | .tag i => blockWord s.tag i
  | .rk k i => if s.rkValid then blockWord s.rk[k] i else 0
  | .buf i => wordOfBytes (s.buf.read i) (s.buf.read (i + 1)) (s.buf.read (i + 2)) (s.buf.read (i + 3))

/-- A write of v to a mapped word while BUSY = 0, or to CTRL or STATUS at any time (10_state.md R22-R36).
RO registers and fields ignore it (20_memory.md R72); a KEY write clears RK_VALID (10_state.md R31, R35); a CMD write issues the command (60_exceptions.md R261). -/
def State.writeTarget (s : State) (v : Word) : Target → State
  | .id => s
  | .ctrl => s.writeCtrl v
  | .status => s.writeStatus v
  | .cmd => s.accept v
  | .len => { s with len := v }
  | .gf => { s with gfA := byteLane v 0, gfB := byteLane v 1 }
  | .ctrLo => { s with ctrLo := v }
  | .ctrHi => { s with ctrHi := v }
  | .key i => { s with key := setBlockWord s.key i v, rkValid := false }
  | .state i => { s with state := setBlockWord s.state i v }
  | .tag _ => s
  | .rk _ _ => s
  | .buf i => { s with buf := s.buf.writeBytes i [byteLane v 0, byteLane v 1, byteLane v 2, byteLane v 3] }

/-- ID, CTRL and STATUS return their value while BUSY = 1 (70_reset_and_hazards.md R313). -/
def Target.readableWhileBusy : Target → Bool
  | .id => true
  | .ctrl => true
  | .status => true
  | .cmd => false
  | .len => false
  | .gf => false
  | .ctrLo => false
  | .ctrHi => false
  | .key _ => false
  | .state _ => false
  | .tag _ => false
  | .rk _ _ => false
  | .buf _ => false

/-- CTRL and STATUS may be written at any time (70_reset_and_hazards.md R311). -/
def Target.writableWhileBusy : Target → Bool
  | .ctrl => true
  | .status => true
  | .id => false
  | .cmd => false
  | .len => false
  | .gf => false
  | .ctrLo => false
  | .ctrHi => false
  | .key _ => false
  | .state _ => false
  | .tag _ => false
  | .rk _ _ => false
  | .buf _ => false

/-- The bus error response: rsp_err = 1, rsp_rdata = 0 (20_memory.md R62). -/
def Response.busError : Response := ⟨0, true⟩

/-- A normal response carrying v; the data of a write response is 0 (20_memory.md R60). -/
def Response.ok (v : Word) : Response := ⟨v, false⟩

/-- `MemRead(a, 4)`: the response; no read changes state (20_memory.md R68). -/
def State.busRead (s : State) (a : Addr) : Response :=
  match s.target a with
  | none => .busError
  | some t => if s.busy && !t.readableWhileBusy then .ok 0 else .ok (s.readTarget t)

/-- `MemWrite(a, 4, v)`: the state after it.
A bus error changes nothing; while BUSY = 1 a write to anything but CTRL and STATUS only sets OVR (70_reset_and_hazards.md R312). -/
def State.busWrite (s : State) (a : Addr) (v : Word) : State :=
  match s.target a with
  | none => s
  | some t => if s.busy && !t.writableWhileBusy then { s with ovr := true } else s.writeTarget v t

/-- The response to a write. -/
def State.busWriteResponse (s : State) (a : Addr) : Response :=
  match s.target a with
  | none => .busError
  | some _ => .ok 0

/-- One response, taken by the host (20_memory.md R61). -/
def State.respond (s : State) (r : Response) : State := { s with responses := r :: s.responses }

/-- One bus transaction, atomic (20_memory.md R61, R67). -/
def busTransaction (r : BusRequest) (s : State) : State :=
  match r with
  | .read a => s.respond (s.busRead a)
  | .write a v => (s.busWrite a v).respond (s.busWriteResponse a)

end Sys2Proof.Machine
end

