-- ==== Sys2Proof/Syntax.lean ====
section
/-! DEFINITION. The commands of CLAES: one constructor per row of spec/opcode_table.json (spec/30_encoding.md R92). -/

namespace Sys2Proof

/-- The 16 commands.
The only explicit operand is the round index K of ADD_ROUND_KEY (30_encoding.md R91). -/
inductive Instr
  | gfAdd
  | gfMul
  | subBytes
  | invSubBytes
  | shiftRows
  | invShiftRows
  | mixColumns
  | invMixColumns
  | addRoundKey (k : BitVec 4)
  | expandKey
  | encryptBlock
  | decryptBlock
  | ctrApply
  | cbcMac
  | sealMsg
  | openMsg
  deriving DecidableEq, Repr

end Sys2Proof
end

