-- ==== Sys2Proof/WellFormed.lean ====
section
/-! DEFINITION. Which terms of Instr are commands of the hardware (spec/30_encoding.md R91). -/

namespace Sys2Proof

/-- A command is well formed when its round index is one of the 11 round keys, 0 <= k <= 10 (R91).
Every other command has no operand to check. -/
def Instr.wf : Instr → Bool
  | .addRoundKey k => k.toNat ≤ 10
  | .gfAdd => true
  | .gfMul => true
  | .subBytes => true
  | .invSubBytes => true
  | .shiftRows => true
  | .invShiftRows => true
  | .mixColumns => true
  | .invMixColumns => true
  | .expandKey => true
  | .encryptBlock => true
  | .decryptBlock => true
  | .ctrApply => true
  | .cbcMac => true
  | .sealMsg => true
  | .openMsg => true

end Sys2Proof
end

