-- ==== Sys2Proof/Decode.lean ====
section
/-! DEFINITION. Command words: the decoder of spec/30_encoding.md R93, the encoder, and the opcode map of R92 as rows. -/

namespace Sys2Proof

/-- Why a word is ILLEGAL (30_encoding.md R94).
Every one of them is the same ILLEGAL_COMMAND to the sequencer. -/
inductive DecodeError
  /-- RES, bits 31:12, is not 0. -/
  | reservedBits
  /-- K is 11..15 on OP 0x16. -/
  | roundOutOfRange
  /-- K is not 0 on an OP other than 0x16. -/
  | roundNotAllowed
  /-- OP is in no row of the opcode map. -/
  | noSuchOperation
  deriving DecidableEq, Repr

/-- OP, bits 7:0 of a command word (R90). -/
def opField (w : Word) : Byte := w.extractLsb' 0 8

/-- K, bits 11:8 of a command word (R90). -/
def kField (w : Word) : BitVec 4 := w.extractLsb' 8 4

/-- RES, bits 31:12 of a command word (R90). -/
def resField (w : Word) : BitVec 20 := w.extractLsb' 12 20

/-- The commands without a round index, by OP (the `case op of` of R93). -/
def decodeOp (op : Byte) : Except DecodeError Instr :=
  match op.toNat with
  | 0x01 => .ok .gfAdd
  | 0x02 => .ok .gfMul
  | 0x10 => .ok .subBytes
  | 0x11 => .ok .invSubBytes
  | 0x12 => .ok .shiftRows
  | 0x13 => .ok .invShiftRows
  | 0x14 => .ok .mixColumns
  | 0x15 => .ok .invMixColumns
  | 0x20 => .ok .expandKey
  | 0x30 => .ok .encryptBlock
  | 0x31 => .ok .decryptBlock
  | 0x40 => .ok .ctrApply
  | 0x41 => .ok .cbcMac
  | 0x50 => .ok .sealMsg
  | 0x51 => .ok .openMsg
  | _ => .error .noSuchOperation

/-- `decode(w)` of R93, total on every 32-bit word. -/
def decode (w : Word) : Except DecodeError Instr :=
  if resField w ≠ 0 then .error .reservedBits
  else if opField w = 0x16 then
    if (kField w).toNat ≤ 10 then .ok (.addRoundKey (kField w)) else .error .roundOutOfRange
  else if kField w ≠ 0 then .error .roundNotAllowed
  else decodeOp (opField w)

/-- The OP byte of each command (the OP column of R92). -/
def opOf : Instr → Byte
  | .gfAdd => 0x01
  | .gfMul => 0x02
  | .subBytes => 0x10
  | .invSubBytes => 0x11
  | .shiftRows => 0x12
  | .invShiftRows => 0x13
  | .mixColumns => 0x14
  | .invMixColumns => 0x15
  | .addRoundKey _ => 0x16
  | .expandKey => 0x20
  | .encryptBlock => 0x30
  | .decryptBlock => 0x31
  | .ctrApply => 0x40
  | .cbcMac => 0x41
  | .sealMsg => 0x50
  | .openMsg => 0x51

/-- The K nibble of each command: the round index of ADD_ROUND_KEY, 0 for every other OP (R90). -/
def kOf : Instr → BitVec 4
  | .addRoundKey k => k
  | .gfAdd => 0
  | .gfMul => 0
  | .subBytes => 0
  | .invSubBytes => 0
  | .shiftRows => 0
  | .invShiftRows => 0
  | .mixColumns => 0
  | .invMixColumns => 0
  | .expandKey => 0
  | .encryptBlock => 0
  | .decryptBlock => 0
  | .ctrApply => 0
  | .cbcMac => 0
  | .sealMsg => 0
  | .openMsg => 0

/-- The command word of a command: RES = 0, then K, then OP, most significant field first (format CMD32, R90). -/
def encode (i : Instr) : Word := (0#20 ++ kOf i) ++ opOf i

/-- One row of the opcode map of R92.
`needsRound` marks the row whose field condition is K <= 10. -/
structure OpcodeRow where
  pattern : Word
  mask : Word
  needsRound : Bool
  command : BitVec 4 → Instr

/-- The opcode map, row by row as R92 prints it. -/
def opcodeMap : List OpcodeRow :=
  [⟨0x00000001, 0xFFFFFFFF, false, fun _ => .gfAdd⟩,
   ⟨0x00000002, 0xFFFFFFFF, false, fun _ => .gfMul⟩,
   ⟨0x00000010, 0xFFFFFFFF, false, fun _ => .subBytes⟩,
   ⟨0x00000011, 0xFFFFFFFF, false, fun _ => .invSubBytes⟩,
   ⟨0x00000012, 0xFFFFFFFF, false, fun _ => .shiftRows⟩,
   ⟨0x00000013, 0xFFFFFFFF, false, fun _ => .invShiftRows⟩,
   ⟨0x00000014, 0xFFFFFFFF, false, fun _ => .mixColumns⟩,
   ⟨0x00000015, 0xFFFFFFFF, false, fun _ => .invMixColumns⟩,
   ⟨0x00000016, 0xFFFFF0FF, true, fun k => .addRoundKey k⟩,
   ⟨0x00000020, 0xFFFFFFFF, false, fun _ => .expandKey⟩,
   ⟨0x00000030, 0xFFFFFFFF, false, fun _ => .encryptBlock⟩,
   ⟨0x00000031, 0xFFFFFFFF, false, fun _ => .decryptBlock⟩,
   ⟨0x00000040, 0xFFFFFFFF, false, fun _ => .ctrApply⟩,
   ⟨0x00000041, 0xFFFFFFFF, false, fun _ => .cbcMac⟩,
   ⟨0x00000050, 0xFFFFFFFF, false, fun _ => .sealMsg⟩,
   ⟨0x00000051, 0xFFFFFFFF, false, fun _ => .openMsg⟩]

/-- "A word w selects the row whose `match` equals `w and mask`, provided the row's field condition holds" (R92). -/
def OpcodeRow.selects (r : OpcodeRow) (w : Word) : Bool :=
  w &&& r.mask = r.pattern ∧ (r.needsRound = true → (kField w).toNat ≤ 10)

/-- The host's view of the decoder.
A table row's bits are one 32-bit command word (R90), so the `nbits` low bits of `w` are that word, the bits above them 0.
A number that does not fit in 32 bits is no command word. -/
def decodeTableWord (nbits w : Nat) : Option Instr :=
  if w % 2 ^ nbits < 2 ^ 32 then (decode (BitVec.ofNat 32 (w % 2 ^ nbits))).toOption else none

end Sys2Proof
end

