-- ==== Sys2Proof/Machine/Field.lean ====
section
/-! DEFINITION. GF(2^8) arithmetic and the commands GF_ADD and GF_MUL (spec/40_field.md). -/

namespace Sys2Proof.Machine

/-- `gfAdd(a, b) = a xor b` (R111). -/
def gfAdd (a b : Byte) : Byte := a ^^^ b

/-- `xtime(d)`: multiplication by x modulo 0x11B (R112). -/
def xtime (d : Byte) : Byte := (d <<< 1) ^^^ (if d.getLsbD 7 then 0x1B else 0x00)

/-- The loop of R113 with `n` iterations left: `acc` the accumulator, `d` the doubled operand, and the next bit of b lowest in `b`. -/
def gfMulLoop : Nat → Byte → Byte → Byte → Byte
  | 0, acc, _, _ => acc
  | n + 1, acc, d, b => gfMulLoop n (if b.getLsbD 0 then gfAdd acc d else acc) (xtime d) (b >>> 1)

/-- `gfMul(a, b)`: 8 iterations over the bits of b from the least significant (R113). -/
def gfMul (a b : Byte) : Byte := gfMulLoop 8 0x00 a b

/-- GF_ADD (R115). -/
def execGfAdd (s : State) : Host.Outcome State Fault Refusal :=
  runCommand s [] fun s => (s.writeGfP (gfAdd s.gfA s.gfB), .none)

/-- GF_MUL (R116). -/
def execGfMul (s : State) : Host.Outcome State Fault Refusal :=
  runCommand s [] fun s => (s.writeGfP (gfMul s.gfA s.gfB), .none)

end Sys2Proof.Machine
end

