-- ==== Sys2Proof/Machine/Rounds.lean ====
section
/-! DEFINITION. The round transforms, their inverses, and the single-step commands SUB_BYTES ... ADD_ROUND_KEY (spec/41_round_transforms.md). -/

namespace Sys2Proof.Machine

/-- `SubBytes(S)[i] = SBOX[S[i]]` (R132). -/
def subBytes (rom : Rom) (s : Block) : Block := Vector.ofFn fun i => rom.sub s[i]

/-- `SubBytesInv(S)[i] = SBOX_INV[S[i]]` (R132). -/
def subBytesInv (rom : Rom) (s : Block) : Block := Vector.ofFn fun i => rom.subInv s[i]

/-- Grid cell s[r][c], for any r and c taken modulo 4: byte r + 4c (10_state.md R30). -/
def cell (s : Block) (r c : Nat) : Byte := s[r % 4 + 4 * (c % 4)]

/-- The block whose grid cell (r, c) is `f r c`. -/
def ofCells (f : Nat → Nat → Byte) : Block := Vector.ofFn fun i => f (i.val % 4) (i.val / 4)

/-- `ShiftRows(S)[r + 4c] = S[r + 4*((c + r) mod 4)]` (R133). -/
def shiftRows (s : Block) : Block := ofCells fun r c => cell s r (c + r)

/-- `ShiftRowsInv(S)[r + 4c] = S[r + 4*((c - r) mod 4)]` (R133); with r < 4, c + 4 - r is c - r modulo 4. -/
def shiftRowsInv (s : Block) : Block := ofCells fun r c => cell s r (c + 4 - r)

/-- Row 0 of the MixColumns matrix (R134). -/
def mixRow : Vector Byte 4 := #v[2, 3, 1, 1]

/-- Row 0 of the MixColumnsInv matrix (R135). -/
def mixRowInv : Vector Byte 4 := #v[14, 11, 13, 9]

/-- `M[r][k]` (R134, R135): in both matrices row r is row 0 rotated right by r positions, so the entry in column k is entry k - r, modulo 4, of row 0. -/
def matrixEntry (row0 : Vector Byte 4) (r k : Nat) : Byte := row0[(k + 4 - r % 4) % 4]

/-- Every column left-multiplied over GF(2^8) by the matrix whose row 0 is given (R134). -/
def multiplyColumns (row0 : Vector Byte 4) (s : Block) : Block :=
  ofCells fun r c =>
    let term := fun k => gfMul (matrixEntry row0 r k) (cell s k c)
    gfAdd (gfAdd (gfAdd (term 0) (term 1)) (term 2)) (term 3)

/-- `MixColumns(S)` (R134). -/
def mixColumns (s : Block) : Block := multiplyColumns mixRow s

/-- `MixColumnsInv(S)` (R135). -/
def mixColumnsInv (s : Block) : Block := multiplyColumns mixRowInv s

/-- `AddRoundKey(S, K) = xor16(S, K)` (R136). -/
def addRoundKey (s k : Block) : Block := xor16 s k

/-- SUB_BYTES (R140). -/
def execSubBytes (s : State) : Host.Outcome State Fault Refusal :=
  runCommand s [] fun s => (s.writeState (subBytes s.rom s.state), .none)

/-- INV_SUB_BYTES (R141). -/
def execInvSubBytes (s : State) : Host.Outcome State Fault Refusal :=
  runCommand s [] fun s => (s.writeState (subBytesInv s.rom s.state), .none)

/-- SHIFT_ROWS (R142). -/
def execShiftRows (s : State) : Host.Outcome State Fault Refusal :=
  runCommand s [] fun s => (s.writeState (shiftRows s.state), .none)

/-- INV_SHIFT_ROWS (R143). -/
def execInvShiftRows (s : State) : Host.Outcome State Fault Refusal :=
  runCommand s [] fun s => (s.writeState (shiftRowsInv s.state), .none)

/-- MIX_COLUMNS (R144). -/
def execMixColumns (s : State) : Host.Outcome State Fault Refusal :=
  runCommand s [] fun s => (s.writeState (mixColumns s.state), .none)

/-- INV_MIX_COLUMNS (R145). -/
def execInvMixColumns (s : State) : Host.Outcome State Fault Refusal :=
  runCommand s [] fun s => (s.writeState (mixColumnsInv s.state), .none)

/-- ADD_ROUND_KEY k (R146).
A k of 11..15 is ILLEGAL_COMMAND (30_encoding.md R94), checked before the command's own check as 60_exceptions.md R263 orders them. -/
def execAddRoundKey (k : BitVec 4) (s : State) : Host.Outcome State Fault Refusal :=
  if h : k.toNat ≤ 10 then
    runCommand s [(!s.rkValid, .keyNotExpanded)] fun s => (s.writeState (addRoundKey s.state s.rk[k.toNat]), .none)
  else runIllegal s

end Sys2Proof.Machine
end

