-- ==== Sys2Proof/Machine/KeySchedule.lean ====
section
/-! DEFINITION. Key expansion and the command EXPAND_KEY (spec/42_key_schedule.md). -/

namespace Sys2Proof.Machine

/-- `RotWord(a0, a1, a2, a3) = (a1, a2, a3, a0)` (R161). -/
def rotWord (a : KeyWord) : KeyWord := #v[a[1], a[2], a[3], a[0]]

/-- `SubWord`: SBOX on each byte (R161). -/
def subWord (rom : Rom) (a : KeyWord) : KeyWord := #v[rom.sub a[0], rom.sub a[1], rom.sub a[2], rom.sub a[3]]

/-- rc_1 .. rc_10 (R161). -/
def rconBytes : List Byte := [0x01, 0x02, 0x04, 0x08, 0x10, 0x20, 0x40, 0x80, 0x1B, 0x36]

/-- `RCON(r) = (rc_r, 0, 0, 0)` for r = 1..10 (R161). -/
def rcon (r : Nat) : KeyWord := #v[rconBytes.getD (r - 1) 0, 0, 0, 0]

/-- `wxor(u, v)` (R161). -/
def wxor (u v : KeyWord) : KeyWord := #v[u[0] ^^^ v[0], u[1] ^^^ v[1], u[2] ^^^ v[2], u[3] ^^^ v[3]]

/-- Four consecutive words W[4k], W[4k+1], W[4k+2], W[4k+3] of the schedule. -/
structure KeyWords where
  w0 : KeyWord
  w1 : KeyWord
  w2 : KeyWord
  w3 : KeyWord
  deriving DecidableEq, Repr

/-- Words 0-3, "the 4-byte chunks of the master key" (R162). -/
def seedWords (k : Block) : KeyWords :=
  ⟨#v[k[0], k[1], k[2], k[3]], #v[k[4], k[5], k[6], k[7]], #v[k[8], k[9], k[10], k[11]],
    #v[k[12], k[13], k[14], k[15]]⟩

/-- The recurrence of R162 for i = 4r, 4r+1, 4r+2, 4r+3, from the four words before them. -/
def nextWords (rom : Rom) (r : Nat) (v : KeyWords) : KeyWords :=
  let a := wxor (wxor v.w0 (rcon r)) (subWord rom (rotWord v.w3))
  let b := wxor v.w1 a
  let c := wxor v.w2 b
  ⟨a, b, c, wxor v.w3 c⟩

/-- Words 4k .. 4k+3 of Expand(key). -/
def scheduleWords (rom : Rom) (key : Block) : Nat → KeyWords
  | 0 => seedWords key
  | k + 1 => nextWords rom (k + 1) (scheduleWords rom key k)

/-- `W[4k] || W[4k+1] || W[4k+2] || W[4k+3]`. -/
def KeyWords.block (v : KeyWords) : Block :=
  #v[v.w0[0], v.w0[1], v.w0[2], v.w0[3], v.w1[0], v.w1[1], v.w1[2], v.w1[3],
    v.w2[0], v.w2[1], v.w2[2], v.w2[3], v.w3[0], v.w3[1], v.w3[2], v.w3[3]]

/-- `Expand(K)`: the 11 round keys (R162). -/
def expand (rom : Rom) (key : Block) : RoundKeys := Vector.ofFn fun k => (scheduleWords rom key k.val).block

/-- `RK <- Expand(KEY) ; STATUS.RK_VALID <- 1`, shared by EXPAND_KEY, SEAL and OPEN (R165, 45_authenticated.md R231). -/
def State.deriveRoundKeys (s : State) : State := s.writeRoundKeys (expand s.rom s.key)

/-- EXPAND_KEY (R165). -/
def execExpandKey (s : State) : Host.Outcome State Fault Refusal :=
  runCommand s [] fun s => (s.deriveRoundKeys, .none)

end Sys2Proof.Machine
end

