-- ==== Sys2Proof/Machine/Cipher.lean ====
section
/-! DEFINITION. The block cipher and the commands ENCRYPT_BLOCK and DECRYPT_BLOCK (spec/43_block_cipher.md). -/

namespace Sys2Proof.Machine

/-- One of rounds 1..9 of Encrypt (R180). -/
def encryptRound (rom : Rom) (rk : RoundKeys) (s : Block) (round : Fin 11) : Block :=
  addRoundKey (mixColumns (shiftRows (subBytes rom s))) rk[round]

/-- One of rounds 9..1 of Decrypt (R181). -/
def decryptRound (rom : Rom) (rk : RoundKeys) (s : Block) (round : Fin 11) : Block :=
  subBytesInv rom (shiftRowsInv (mixColumnsInv (addRoundKey s rk[round])))

/-- `round in 1..9` (R180). -/
def middleRounds : List (Fin 11) := [1, 2, 3, 4, 5, 6, 7, 8, 9]

/-- `Encrypt(P, RK)` (R180): one AddRoundKey, 9 full rounds, a final round without MixColumns. -/
def encrypt (rom : Rom) (p : Block) (rk : RoundKeys) : Block :=
  addRoundKey (shiftRows (subBytes rom (middleRounds.foldl (encryptRound rom rk) (addRoundKey p rk[0])))) rk[10]

/-- `Decrypt(C, RK)`, the exact mirror (R181): `round in 9 down to 1`. -/
def decrypt (rom : Rom) (c : Block) (rk : RoundKeys) : Block :=
  addRoundKey
    (middleRounds.reverse.foldl (decryptRound rom rk) (subBytesInv rom (shiftRowsInv (addRoundKey c rk[10])))) rk[0]

/-- ENCRYPT_BLOCK (R182). -/
def execEncryptBlock (s : State) : Host.Outcome State Fault Refusal :=
  runCommand s [(!s.rkValid, .keyNotExpanded)] fun s => (s.writeState (encrypt s.rom s.state s.rk), .none)

/-- DECRYPT_BLOCK (R183). -/
def execDecryptBlock (s : State) : Host.Outcome State Fault Refusal :=
  runCommand s [(!s.rkValid, .keyNotExpanded)] fun s => (s.writeState (decrypt s.rom s.state s.rk), .none)

end Sys2Proof.Machine
end

