-- ==== Sys2Proof/Machine/Modes.lean ====
section
/-! DEFINITION. The CTR stream, CBC-MAC, and the commands CTR_APPLY and CBC_MAC (spec/44_modes.md). -/

namespace Sys2Proof.Machine

/-- `CB(v) = zeros(8) || BE64(v)` (R201): byte 15 is the least significant byte of v, byte 8 the most significant. -/
def counterBlock (v : Nat) : Block :=
  Vector.ofFn fun i => if i.val < 8 then 0 else BitVec.ofNat 8 (v >>> (8 * (15 - i.val)))

/-- The loop of R202: block j of the message xored with the encryption of CB(C + j). -/
def ctrBlocks (rom : Rom) (rk : RoundKeys) : Nat → List Block → List Block
  | _, [] => []
  | c, b :: bs => xor16 b (encrypt rom (counterBlock c) rk) :: ctrBlocks rom rk (c + 1) bs

/-- `CtrApply(M, RK, C)`: pad16(len(M)) bytes (R202). -/
def ctrApply (rom : Rom) (m : List Byte) (rk : RoundKeys) (c : Nat) : List Byte :=
  ofBlocks (ctrBlocks rom rk c (toBlocks (blockCount m.length) (padMessage m)))

/-- `CbcMac(M, RK)` for a message whose length is a multiple of 16 (R210). -/
def cbcMac (rom : Rom) (m : List Byte) (rk : RoundKeys) : Block :=
  (toBlocks (m.length / 16) m).foldl (fun a b => encrypt rom (xor16 b a) rk) Block.zero

/-- CTR_APPLY (R205). -/
def execCtrApply (s : State) : Host.Outcome State Fault Refusal :=
  runCommand s
    [(!s.rkValid, .keyNotExpanded),
     (s.length > s.bufBytes, .lengthOutOfRange),
     (counterOverflows s.counter (blockCount s.length), .counterOverflow)]
    fun s => ((s.writeMessage (ctrApply s.rom s.message s.rk s.counter)).writeLen (pad16 s.length), .none)

/-- CBC_MAC (R212). -/
def execCbcMac (s : State) : Host.Outcome State Fault Refusal :=
  runCommand s
    [(!s.rkValid, .keyNotExpanded),
     (s.length > s.bufBytes, .lengthOutOfRange),
     (s.length % 16 ≠ 0, .invalidMacInputLength)]
    fun s => (s.writeTag (cbcMac s.rom s.message s.rk), .none)

end Sys2Proof.Machine
end

