-- ==== Sys2Proof/Machine/Auth.lean ====
section
/-! DEFINITION. The authenticated cipher and the commands SEAL and OPEN (spec/45_authenticated.md). -/

namespace Sys2Proof.Machine

/-- The ciphertext and the tag SEAL appends to it (R230, R232). -/
def sealParts (rom : Rom) (pt : List Byte) (key : Block) (c : Nat) : List Byte × Block :=
  let rk := expand rom key
  let ct := ctrApply rom pt rk c
  (ct, cbcMac rom ct rk)

/-- `Seal(PT, K, C) = CT || CbcMac(CT, Expand(K))` (R232). -/
def sealString (rom : Rom) (pt : List Byte) (key : Block) (c : Nat) : List Byte :=
  (sealParts rom pt key c).1 ++ (sealParts rom pt key c).2.toList

/-- `tagEqual(ET, RT)`: all 16 byte pairs are compared and only the verdict leaves (R236). -/
def tagEqual (et rt : Block) : Bool :=
  (List.finRange 16).foldl (fun ok i => ok && et[i] == rt[i]) true

/-- `Open(S, K, C)` (R233); `none` is TAMPERED, and then no keystream is computed (R235). -/
def openString (rom : Rom) (s : List Byte) (key : Block) (c : Nat) : Option (List Byte) :=
  let ct := s.take (s.length - 16)
  let rk := expand rom key
  if tagEqual (cbcMac rom ct rk) (headBlock (s.drop (s.length - 16))) then some (ctrApply rom ct rk c) else none

/-- SEAL (R230).
The subtraction of the length check is exact, since BUF_BYTES is at least 32. -/
def execSealMsg (s : State) : Host.Outcome State Fault Refusal :=
  runCommand s
    [(s.length > s.bufBytes - 16, .lengthOutOfRange),
     (counterOverflows s.counter (blockCount s.length), .counterOverflow)]
    fun s =>
      let (ct, t) := sealParts s.rom s.message s.key s.counter
      (((s.deriveRoundKeys.writeMessage (ct ++ t.toList)).writeTag t).writeLen (pad16 s.length + 16), .none)

/-- OPEN (R234).
On a tag mismatch only RK and RK_VALID have been written (R235, 60_exceptions.md R265). -/
def execOpenMsg (s : State) : Host.Outcome State Fault Refusal :=
  runCommand s
    [(s.length > s.bufBytes, .lengthOutOfRange),
     (s.length < 16 ∨ (s.length - 16) % 16 ≠ 0, .invalidMacInputLength),
     (counterOverflows s.counter ((s.length - 16) / 16), .counterOverflow)]
    fun s =>
      match openString s.rom s.message s.key s.counter with
      | none => (s.deriveRoundKeys, .tamperedCiphertext)
      | some pt => ((s.deriveRoundKeys.writeMessage pt).writeLen (s.length - 16), .none)

end Sys2Proof.Machine
end

