-- ==== Sys2Proof/Machine/Dispatch.lean ====
section
/-! DEFINITION. What each command does when it runs: one arm per row of spec/opcode_table.json. -/

namespace Sys2Proof.Machine

/-- The completion step of command i: from the state in which it runs to the state in which it has completed (spec/60_exceptions.md R264). -/
def exec (i : Instr) (s : State) : Host.Outcome State Fault Refusal :=
  match i with
  | .gfAdd => Sys2Proof.Machine.execGfAdd s
  | .gfMul => Sys2Proof.Machine.execGfMul s
  | .subBytes => Sys2Proof.Machine.execSubBytes s
  | .invSubBytes => Sys2Proof.Machine.execInvSubBytes s
  | .shiftRows => Sys2Proof.Machine.execShiftRows s
  | .invShiftRows => Sys2Proof.Machine.execInvShiftRows s
  | .mixColumns => Sys2Proof.Machine.execMixColumns s
  | .invMixColumns => Sys2Proof.Machine.execInvMixColumns s
  | .addRoundKey k => Sys2Proof.Machine.execAddRoundKey k s
  | .expandKey => Sys2Proof.Machine.execExpandKey s
  | .encryptBlock => Sys2Proof.Machine.execEncryptBlock s
  | .decryptBlock => Sys2Proof.Machine.execDecryptBlock s
  | .ctrApply => Sys2Proof.Machine.execCtrApply s
  | .cbcMac => Sys2Proof.Machine.execCbcMac s
  | .sealMsg => Sys2Proof.Machine.execSealMsg s
  | .openMsg => Sys2Proof.Machine.execOpenMsg s

end Sys2Proof.Machine
end

