-- ==== Sys2Proof/Machine/Sequencer.lean ====
section
/-! DEFINITION. The sequencer's step: the reset self-check, the completion of the running command, or nothing (spec/70_reset_and_hazards.md R301, spec/60_exceptions.md R262-R264); and rst_n (spec/70_reset_and_hazards.md R300). -/

namespace Sys2Proof.Machine

/-- The end of the reset self-check (70_reset_and_hazards.md R301). -/
def State.selfCheck (s : State) : State :=
  { s with sboxOk := s.rom.pairOk, err := if s.rom.pairOk then s.err else .sboxInitFailure, seq := .idle }

/-- The running command whose word is w (60_exceptions.md R263). -/
def runWord (w : Word) (s : State) : Host.Outcome State Fault Refusal :=
  match decode w with
  | .ok i => exec i s
  | .error _ => runIllegal s

/-- The sequencer's turn: one completion, the self-check, or, when idle, nothing (60_exceptions.md R264, R295). -/
def sequencerTurn (s : State) : Host.Outcome State Fault Refusal :=
  match s.seq with
  | .selftest => .next s.selfCheck
  | .idle => .next s
  | .run w => runWord w s

/-- The BUF bytes of an abandoned command: byte i of `landed` holds the value its rule gives it, every other byte its value at acceptance (70_reset_and_hazards.md R300).
A byte the rule does not write has the same value both ways. -/
def landBytes (old new : Memory) : List Nat → Memory
  | [] => old
  | i :: rest => landBytes (old.write i (new.read i)) new rest

/-- What BUF holds after rst_n was asserted: it keeps its contents, but for a command the reset abandons (70_reset_and_hazards.md R300). -/
def State.bufAfterReset (s : State) (landed : List Nat) : Memory :=
  match s.seq with
  | .run w =>
    match runWord w s with
    | .next t => landBytes s.buf t.buf landed
    | .fault _ => s.buf
    | .refused _ => s.buf
  | .selftest => s.buf
  | .idle => s.buf

/-- rst_n asserted and released (70_reset_and_hazards.md R300): every register takes its reset value, a running command is abandoned without a completion, the self-check is next.
The ROM, BUF_BYTES and the record of the outside world are unaffected. -/
def State.assertReset (s : State) (draw : ResetDraw) : State :=
  State.powerUp s.rom s.bufSize (s.bufAfterReset draw.landed) draw.rk s.inputs s.responses

/-- One event of the total order of 20_memory.md R80. -/
def performInput (i : Input) (s : State) : Host.Outcome State Fault Refusal :=
  match i with
  | .bus r => .next (busTransaction r s)
  | .sequencer => sequencerTurn s
  | .reset draw => .next (s.assertReset draw)

/-- The next event: the first of the inputs, or the sequencer's turn once the outside world has no more to do, so that every accepted command completes (60_exceptions.md R262, 70_reset_and_hazards.md R320). -/
def nextEvent (s : State) : Host.Outcome State Fault Refusal :=
  match s.inputs with
  | [] => sequencerTurn s
  | i :: rest => performInput i { s with inputs := rest }

/-- The self-check done, if it was still running. -/
def State.afterSelfCheck (s : State) : State :=
  match s.seq with
  | .selftest => s.selfCheck
  | .idle => s
  | .run _ => s

/-- The state in which command word w has just been accepted and the sequencer's turn is next (log entry 7). -/
def State.issueNext (s : State) (w : Word) : State :=
  { (s.afterSelfCheck.accept w) with inputs := .sequencer :: s.inputs }

end Sys2Proof.Machine
end

