-- ==== Sys2Proof/Machine/Step.lean ====
section
/-! DEFINITION. One step of the machine, and where a step finds its next command word. -/

namespace Sys2Proof.Machine

/-- One event of the total order of spec/20_memory.md R80: a bus transaction, a sequencer turn or a reset. -/
def step (s : State) : Host.Outcome State Fault Refusal := nextEvent s

/-- s with the command word w accepted and about to run (log entry 7): the self-check done if it was running, the acceptance of spec/60_exceptions.md R261, and the sequencer's turn next.
The table gives every row one 32-bit word, so the `nbits` low bits of w are the whole command. -/
def State.withFetchWord (s : State) (nbits w : Nat) : State := s.issueNext (BitVec.ofNat 32 (w % 2 ^ nbits))

end Sys2Proof.Machine
end

