-- ==== Sys2Proof/Machine/HostProgram.lean ====
section
/-! DEFINITION. Host programs: the base statements, the pseudo-instructions with their expansions, their encoding as bus transactions, and how a program becomes inputs of the machine (spec/30_encoding.md R100-R103). -/

namespace Sys2Proof.Machine

/-- The offset of CMD and of STATUS (20_memory.md R70). -/
def cmdAddr : Addr := 0x000C
def statusAddr : Addr := 0x0008

/-- The base statements of R100, one bus transaction each, and the WAIT loop, which repeats one. -/
inductive HostOp
  /-- `WR a, v`. -/
  | wr (a : Addr) (v : Word)
  /-- `RD a`. -/
  | rd (a : Addr)
  /-- `EXPECT a, v`. -/
  | expect (a : Addr) (v : Word)
  /-- `RD 0x0008` until bit 0 of the value read is 0. -/
  | wait
  deriving DecidableEq, Repr

/-- The statements of R100-R102. -/
inductive Statement
  | wr (a : Addr) (v : Word)
  | rd (a : Addr)
  | expect (a : Addr) (v : Word)
  | cmd (i : Instr)
  | wait
  | ack
  | clrOvr
  | wrb (a : Addr) (bytes : List Byte)
  | expectb (a : Addr) (bytes : List Byte)
  | run (i : Instr)
  | aesRound (k : BitVec 4)
  | aesFinalRound
  | aesInvRound (k : BitVec 4)
  deriving DecidableEq, Repr

/-- The words of `WRB` and `EXPECTB` with their addresses: word i holds bytes 4i .. 4i+3 in bus lanes (R102).
`none` when the byte count is not a multiple of 4.
DESIGN CHOICE (log entry 18): an address past 0xFFFF, of which R102 says nothing, wraps modulo 2^16. -/
def packWords : Addr → List Byte → Option (List (Addr × Word))
  | _, [] => some []
  | a, b0 :: b1 :: b2 :: b3 :: rest => (packWords (a + 4) rest).map fun ws => (a, b3 ++ b2 ++ b1 ++ b0) :: ws
  | _, [_] => none
  | _, [_, _] => none
  | _, [_, _, _] => none

/-- `CMD i`: `WR 0x000C` with the command word; the assembler refuses a k outside 0..10 (R101). -/
def expandCmd (i : Instr) : Option (List HostOp) := if i.wf then some [.wr cmdAddr (encode i)] else none

/-- `RUN i`: `CMD i` then `WAIT` (R102). -/
def expandRun (i : Instr) : Option (List HostOp) := (expandCmd i).map (· ++ [.wait])

/-- Several `RUN`s in order. -/
def expandRuns : List Instr → Option (List HostOp)
  | [] => some []
  | i :: is => do return (← expandRun i) ++ (← expandRuns is)

/-- The commands of `AES_ROUND k`, `AES_FINAL_ROUND` and `AES_INV_ROUND k` (R102).
DESIGN CHOICE (log entry 17): R102 says "one of rounds 1..9" and gives no refusal, so k = 0 and k = 10 expand like any other k that ADD_ROUND_KEY takes. -/
def aesRoundCommands (k : BitVec 4) : List Instr := [.subBytes, .shiftRows, .mixColumns, .addRoundKey k]
def aesFinalRoundCommands : List Instr := [.subBytes, .shiftRows, .addRoundKey 10]
def aesInvRoundCommands (k : BitVec 4) : List Instr := [.addRoundKey k, .invMixColumns, .invShiftRows, .invSubBytes]

/-- The expansion of a statement (R101, R102); `none` is a statement the assembler refuses.
DESIGN CHOICE: AES_ROUND and AES_INV_ROUND with k = 0 or 10 expand (log entry 17), and the addresses of WRB and EXPECTB wrap (log entry 18). -/
def Statement.expand : Statement → Option (List HostOp)
  | .wr a v => some [.wr a v]
  | .rd a => some [.rd a]
  | .expect a v => some [.expect a v]
  | .cmd i => expandCmd i
  | .wait => some [.wait]
  | .ack => some [.wr statusAddr 0x00000002]
  | .clrOvr => some [.wr statusAddr 0x00000004]
  | .wrb a bytes => (packWords a bytes).map (List.map fun p => .wr p.1 p.2)
  | .expectb a bytes => (packWords a bytes).map (List.map fun p => .expect p.1 p.2)
  | .run i => expandRun i
  | .aesRound k => expandRuns (aesRoundCommands k)
  | .aesFinalRound => expandRuns aesFinalRoundCommands
  | .aesInvRound k => expandRuns (aesInvRoundCommands k)

/-- A host program: the expansion of its statements in order (R100). -/
def expandProgram : List Statement → Option (List HostOp)
  | [] => some []
  | st :: rest => do return (← st.expand) ++ (← expandProgram rest)

/-- One entry of a program's encoding (R103): `(W, a, v)`, `(R, a)`, or `(R, 0x0008)*` for WAIT. -/
inductive Transaction
  | w (a : Addr) (v : Word)
  | r (a : Addr)
  | pollStatus
  deriving DecidableEq, Repr

/-- The encoding of one base statement (R103); to CLAES an `EXPECT` is a plain read (R100). -/
def HostOp.transaction : HostOp → Transaction
  | .wr a v => .w a v
  | .rd a => .r a
  | .expect a _ => .r a
  | .wait => .pollStatus

/-- A sequencer turn, or none: a completion that falls before the next transaction (20_memory.md R67, R80). -/
def earlyTurn (early : Bool) : List Input := if early then [.sequencer] else []

/-- The events of one base statement.
The spec leaves open when a command or the self-check completes among the transactions after it (00_scope.md R10, 70_reset_and_hazards.md R320), so the caller says it: `early` puts a sequencer turn, the completion of whatever runs, right before the statement's transaction.
A WAIT that is not early reads STATUS `polls` times with BUSY = 1, and its last read needs the completion (R102), so a sequencer turn comes before that read.
DESIGN CHOICE (log entry 16): the choice of `early` and `polls` stands for LAT and LAT_RESET; with `early` false everywhere, a program's commands complete only inside its WAITs. -/
def HostOp.inputs (early : Bool) (polls : Nat) : HostOp → List Input
  | .wr a v => earlyTurn early ++ [.bus (.write a v)]
  | .rd a => earlyTurn early ++ [.bus (.read a)]
  | .expect a _ => earlyTurn early ++ [.bus (.read a)]
  | .wait =>
    if early then earlyTurn true ++ [.bus (.read statusAddr)]
    else List.replicate polls (.bus (.read statusAddr)) ++ [.sequencer, .bus (.read statusAddr)]

/-- Whether the response to a base statement lets the program go on: `EXPECT` fails on another value or a bus error (R100), WAIT goes round again while bit 0 is 1 (R102). -/
def HostOp.passes : HostOp → Response → Bool
  | .wr _ _, _ => true
  | .rd _, _ => true
  | .expect _ v, r => !r.err && r.data == v
  | .wait, r => !r.data.getLsbD 0

end Sys2Proof.Machine
end

