-- ==== Sys2Proof/Safety.lean ====
section
/-! DEFINITION. What claims are stated in: the invariant of the machine, the clean-entry state of spec/70_reset_and_hazards.md R304, and what it means for a step to leave parts of the state alone. -/

namespace Sys2Proof.Machine

/-- The clean-entry state (70_reset_and_hazards.md R304).
BUF, RK and the parameters are not fixed by it. -/
structure CleanEntry (s : State) : Prop where
  seq : s.seq = .idle
  done : s.done = false
  ovr : s.ovr = false
  err : s.err = .none
  sboxOk : s.sboxOk = true
  rkValid : s.rkValid = false
  ie : s.ie = false
  cmd : s.cmd = 0
  len : s.len = 0
  gfA : s.gfA = 0
  gfB : s.gfB = 0
  gfP : s.gfP = 0
  ctrLo : s.ctrLo = 0
  ctrHi : s.ctrHi = 0
  key : s.key = Block.zero
  state : s.state = Block.zero
  tag : s.tag = Block.zero

/-- What holds in every state of every run. -/
structure Inv (s : State) : Prop where
  /-- BUF is in its canonical form. -/
  bufCanonical : s.buf.wf
  /-- No BUF byte at an index >= BUF_BYTES has been written (20_memory.md R75). -/
  bufInside : ∀ c ∈ s.buf, c.1 < s.bufBytes
  /-- "While RK_VALID = 1, RK = Expand(KEY) holds" (10_state.md R35). -/
  roundKeysFresh : s.rkValid = true → s.rk = expand s.rom s.key
  /-- SBOX_OK is the verdict of the self-check, and is 0 while the self-check runs (10_state.md R26, 70_reset_and_hazards.md R301). -/
  sboxOkIsVerdict : s.sboxOk = (s.rom.pairOk && s.seq != .selftest)
  /-- A running command's word is the CMD readback, and DONE and ERR are cleared (60_exceptions.md R261). -/
  runningIsAccepted : ∀ w, s.seq = .run w → s.cmd = w ∧ s.done = false ∧ s.err = .none
  /-- "fatal at startup, no recovery": with failed tables no round keys are derived, and between commands ERR stays SBOX_INIT_FAILURE (60_exceptions.md R273). -/
  failureStays : s.rom.pairOk = false → s.rkValid = false ∧ (s.seq = .idle → s.err = .sboxInitFailure)
  /-- While the self-check runs, every register but CTRL.IE and STATUS.OVR has its reset value (10_state.md R40, 70_reset_and_hazards.md R311, R312). -/
  selfCheckClean : s.seq = .selftest →
    s.done = false ∧ s.err = .none ∧ s.rkValid = false ∧ s.cmd = 0 ∧ s.len = 0 ∧ s.gfA = 0 ∧ s.gfB = 0 ∧ s.gfP = 0 ∧
      s.ctrLo = 0 ∧ s.ctrHi = 0 ∧ s.key = Block.zero ∧ s.state = Block.zero ∧ s.tag = Block.zero

/-- What no command writes: the host's own registers, the constants of the part, and the record of the outside world (30_encoding.md R95). -/
structure SameHostSide (s t : State) : Prop where
  ie : t.ie = s.ie
  ovr : t.ovr = s.ovr
  sboxOk : t.sboxOk = s.sboxOk
  cmd : t.cmd = s.cmd
  gfA : t.gfA = s.gfA
  gfB : t.gfB = s.gfB
  ctrLo : t.ctrLo = s.ctrLo
  ctrHi : t.ctrHi = s.ctrHi
  key : t.key = s.key
  rom : t.rom = s.rom
  bufSize : t.bufSize = s.bufSize
  inputs : t.inputs = s.inputs
  responses : t.responses = s.responses

/-- Every BUF byte outside `BUF[lo..hi)` reads as before. -/
def SameBufOutside (lo hi : Nat) (s t : State) : Prop :=
  ∀ i, i < lo ∨ hi ≤ i → t.buf.read i = s.buf.read i

/-- Every BUF byte reads as before. -/
def SameBuf (s t : State) : Prop := ∀ i, t.buf.read i = s.buf.read i

/-- The state a failed command leaves: "no register, flag or BUF byte other than the completion bookkeeping" (60_exceptions.md R265). -/
def FailsWith (o : Host.Outcome State Fault Refusal) (s : State) (e : ErrCode) : Prop :=
  o = .next { s with err := e, done := true, seq := .idle }

/-- The codes a command may complete with (the "Raised by" column of 60_exceptions.md R270, in the order of R275). -/
def raisedBy : Instr → List ErrCode
  | .gfAdd => [.none, .sboxInitFailure]
  | .gfMul => [.none, .sboxInitFailure]
  | .subBytes => [.none, .sboxInitFailure]
  | .invSubBytes => [.none, .sboxInitFailure]
  | .shiftRows => [.none, .sboxInitFailure]
  | .invShiftRows => [.none, .sboxInitFailure]
  | .mixColumns => [.none, .sboxInitFailure]
  | .invMixColumns => [.none, .sboxInitFailure]
  | .addRoundKey _ => [.none, .sboxInitFailure, .keyNotExpanded]
  | .expandKey => [.none, .sboxInitFailure]
  | .encryptBlock => [.none, .sboxInitFailure, .keyNotExpanded]
  | .decryptBlock => [.none, .sboxInitFailure, .keyNotExpanded]
  | .ctrApply => [.none, .sboxInitFailure, .keyNotExpanded, .lengthOutOfRange, .counterOverflow]
  | .cbcMac => [.none, .sboxInitFailure, .keyNotExpanded, .lengthOutOfRange, .invalidMacInputLength]
  | .sealMsg => [.none, .sboxInitFailure, .lengthOutOfRange, .counterOverflow]
  | .openMsg =>
    [.none, .sboxInitFailure, .lengthOutOfRange, .invalidMacInputLength, .counterOverflow, .tamperedCiphertext]

/-- The message bytes BUF[0..LEN), with LEN, of two states agree. -/
def SameMessage (s s' : State) : Prop :=
  s.len = s'.len ∧ ∀ n, n < s.len.toNat → s.buf.read n = s'.buf.read n

/-- The counter of two states agrees. -/
def SameCounter (s s' : State) : Prop := s.ctrLo = s'.ctrLo ∧ s.ctrHi = s'.ctrHi

/-- The round keys of two states agree. -/
def SameRoundKeys (s s' : State) : Prop := s.rkValid = s'.rkValid ∧ s.rk = s'.rk

/-- The operands of a command agree: the "Reads" column of 30_encoding.md R95, row by row. -/
def operandsAgree : Instr → State → State → Prop
  | .gfAdd, s, s' => s.gfA = s'.gfA ∧ s.gfB = s'.gfB
  | .gfMul, s, s' => s.gfA = s'.gfA ∧ s.gfB = s'.gfB
  | .subBytes, s, s' => s.state = s'.state
  | .invSubBytes, s, s' => s.state = s'.state
  | .shiftRows, s, s' => s.state = s'.state
  | .invShiftRows, s, s' => s.state = s'.state
  | .mixColumns, s, s' => s.state = s'.state
  | .invMixColumns, s, s' => s.state = s'.state
  | .addRoundKey k, s, s' => s.state = s'.state ∧ s.rkValid = s'.rkValid ∧ s.rk[k.toNat]? = s'.rk[k.toNat]?
  | .expandKey, s, s' => s.key = s'.key
  | .encryptBlock, s, s' => s.state = s'.state ∧ SameRoundKeys s s'
  | .decryptBlock, s, s' => s.state = s'.state ∧ SameRoundKeys s s'
  | .ctrApply, s, s' => SameMessage s s' ∧ SameCounter s s' ∧ SameRoundKeys s s'
  | .cbcMac, s, s' => SameMessage s s' ∧ SameRoundKeys s s'
  | .sealMsg, s, s' => SameMessage s s' ∧ SameCounter s s' ∧ s.key = s'.key
  | .openMsg, s, s' => SameMessage s s' ∧ SameCounter s s' ∧ s.key = s'.key

/-- Two states agree on what a command may depend on: its operands, SBOX_OK, and the constants of the part. -/
structure SameOperands (i : Instr) (s s' : State) : Prop where
  sboxOk : s.sboxOk = s'.sboxOk
  rom : s.rom = s'.rom
  bufSize : s.bufSize = s'.bufSize
  operands : operandsAgree i s s'

/-- The first n bytes of BUF, with LEN, of two states agree. -/
def SameOutput (n : Nat) (t t' : State) : Prop := t.len = t'.len ∧ ∀ j, j < n → t.buf.read j = t'.buf.read j

/-- The results of a command started in s agree: the "Writes on success" column of 30_encoding.md R95, row by row. -/
def SameResults : Instr → State → State → State → Prop
  | .gfAdd, _, t, t' => t.gfP = t'.gfP
  | .gfMul, _, t, t' => t.gfP = t'.gfP
  | .subBytes, _, t, t' => t.state = t'.state
  | .invSubBytes, _, t, t' => t.state = t'.state
  | .shiftRows, _, t, t' => t.state = t'.state
  | .invShiftRows, _, t, t' => t.state = t'.state
  | .mixColumns, _, t, t' => t.state = t'.state
  | .invMixColumns, _, t, t' => t.state = t'.state
  | .addRoundKey _, _, t, t' => t.state = t'.state
  | .expandKey, _, t, t' => SameRoundKeys t t'
  | .encryptBlock, _, t, t' => t.state = t'.state
  | .decryptBlock, _, t, t' => t.state = t'.state
  | .ctrApply, s, t, t' => SameOutput (pad16 s.len.toNat) t t'
  | .cbcMac, _, t, t' => t.tag = t'.tag
  | .sealMsg, s, t, t' => SameRoundKeys t t' ∧ t.tag = t'.tag ∧ SameOutput (pad16 s.len.toNat + 16) t t'
  | .openMsg, s, t, t' => SameRoundKeys t t' ∧ SameOutput (s.len.toNat - 16) t t'

/-- A run of several commands with nothing between them, each from the state the one before it left. -/
def runCommands : List Instr → State → Option State
  | [], s => some s
  | i :: is, s =>
    match exec i s with
    | .next t => runCommands is t
    | .fault _ => none
    | .refused _ => none

/-- The commands of a host program that computes ENCRYPT_BLOCK round by round (43_block_cipher.md R186). -/
def encryptByRounds : List Instr :=
  [.addRoundKey 0] ++ ([1, 2, 3, 4, 5, 6, 7, 8, 9] : List (BitVec 4)).flatMap aesRoundCommands ++ aesFinalRoundCommands

/-- The commands that compute DECRYPT_BLOCK in the order of 43_block_cipher.md R181 (R186). -/
def decryptByRounds : List Instr :=
  [.addRoundKey 10, .invShiftRows, .invSubBytes] ++
    ([9, 8, 7, 6, 5, 4, 3, 2, 1] : List (BitVec 4)).flatMap aesInvRoundCommands ++ [.addRoundKey 0]

/-- Bus transactions performed one after another. -/
def runBus : List BusRequest → State → State
  | [], s => s
  | r :: rs, s => runBus rs (busTransaction r s)

/-- A state with the parts set aside that host traffic may change while a command runs: CTRL.IE, STATUS.OVR and the responses (70_reset_and_hazards.md R311-R313). -/
def hideHostTraffic (s : State) : State := { s with ie := false, ovr := false, responses := [] }

end Sys2Proof.Machine
end

