-- ==== Sys2Proof/Certificates/Slice0/Obligations.lean ====
section
/-! DEFINITION. The statements for the provers, each about the machine and none about a program. -/

open Sys2Proof Sys2Proof.Machine

/-! ## Command words -/

/-- Words written out from the fields of 30_encoding.md R90 and R92, one or two of every family, and illegal ones of R94. -/
def Obligations.DecodesTheSpecsWords : Prop :=
  decode 0b00000000000000000000_0000_00000001#32 = .ok .gfAdd ∧
  decode 0b00000000000000000000_0000_00010101#32 = .ok .invMixColumns ∧
  decode 0b00000000000000000000_1010_00010110#32 = .ok (.addRoundKey 10) ∧
  decode 0b00000000000000000000_0000_00100000#32 = .ok .expandKey ∧
  decode 0b00000000000000000000_0000_00110001#32 = .ok .decryptBlock ∧
  decode 0b00000000000000000000_0000_01000001#32 = .ok .cbcMac ∧
  decode 0b00000000000000000000_0000_01010000#32 = .ok .sealMsg ∧
  decode 0b00000000000000000000_1011_00010110#32 = .error .roundOutOfRange ∧
  decode 0b00000000000000000001_0000_00010110#32 = .error .reservedBits ∧
  decode 0b00000000000000000000_0001_00110000#32 = .error .roundNotAllowed ∧
  decode 0b00000000000000000000_0000_00010111#32 = .error .noSuchOperation

/-- Decoding and encoding agree: a word decodes to a command exactly when the command is well formed and the word is its word.
So decoding the word of a well-formed command gives it back with every round index, and no two words decode to one command. -/
def Obligations.DecodeAndEncodeAgree : Prop :=
  ∀ (w : Word) (i : Instr), decode w = .ok i ↔ i.wf = true ∧ encode i = w

/-- 30_encoding.md R92: the rows of the opcode map, written out; the decoder selects exactly them, no word selects two rows, and the legal words are the 26 of R92. -/
def Obligations.OpcodeMapIsTheDecoder : Prop :=
  (opcodeMap.map fun r => (r.pattern, r.mask, r.command 7)) =
    [(0x01, 0xFFFFFFFF, .gfAdd), (0x02, 0xFFFFFFFF, .gfMul), (0x10, 0xFFFFFFFF, .subBytes),
     (0x11, 0xFFFFFFFF, .invSubBytes), (0x12, 0xFFFFFFFF, .shiftRows), (0x13, 0xFFFFFFFF, .invShiftRows),
     (0x14, 0xFFFFFFFF, .mixColumns), (0x15, 0xFFFFFFFF, .invMixColumns), (0x16, 0xFFFFF0FF, .addRoundKey 7),
     (0x20, 0xFFFFFFFF, .expandKey), (0x30, 0xFFFFFFFF, .encryptBlock), (0x31, 0xFFFFFFFF, .decryptBlock),
     (0x40, 0xFFFFFFFF, .ctrApply), (0x41, 0xFFFFFFFF, .cbcMac), (0x50, 0xFFFFFFFF, .sealMsg),
     (0x51, 0xFFFFFFFF, .openMsg)] ∧
  (∀ k : BitVec 4, k.toNat ≤ 10 → decode (0x00000016 ||| (k.setWidth 32 <<< 8)) = .ok (.addRoundKey k)) ∧
  (∀ (w : Word) (i : Instr), decode w = .ok i ↔
    ∃ r ∈ opcodeMap, r.selects w = true ∧ r.command (kField w) = i) ∧
  (∀ w : Word, opcodeMap.Pairwise fun r q => ¬(r.selects w = true ∧ q.selects w = true)) ∧
  (∀ w : Word, (∃ i, decode w = .ok i) ↔
    w ∈ ([0x01, 0x02, 0x10, 0x11, 0x12, 0x13, 0x14, 0x15, 0x20, 0x30, 0x31, 0x40, 0x41, 0x50, 0x51,
      0x016, 0x116, 0x216, 0x316, 0x416, 0x516, 0x616, 0x716, 0x816, 0x916, 0xA16] : List Word))

/-- 30_encoding.md R94 and 60_exceptions.md R272: which words are ILLEGAL, and that running one writes nothing but the bookkeeping. -/
def Obligations.IllegalWordsOnlyComplete : Prop :=
  (∀ w : Word, (∃ e, decode w = .error e) ↔
    (w.extractLsb' 12 20 ≠ 0 ∨
      (w.extractLsb' 0 8 = 0x16 ∧ 11 ≤ (w.extractLsb' 8 4).toNat) ∨
      (w.extractLsb' 0 8 ≠ 0x16 ∧ w.extractLsb' 8 4 ≠ 0) ∨
      w.extractLsb' 0 8 ∉ ([0x01, 0x02, 0x10, 0x11, 0x12, 0x13, 0x14, 0x15, 0x16, 0x20, 0x30, 0x31, 0x40, 0x41,
        0x50, 0x51] : List Byte))) ∧
  ∀ (w : Word) (s : State), (∃ e, decode w = .error e) → s.sboxOk = true →
    FailsWith (runWord w s) s .illegalCommand

/-- 30_encoding.md R101: `CMD m` is one write of m's word to 0x000C, an ill-formed round index is refused, and ADD_ROUND_KEY k has the word 0x16 | (k << 8). -/
def Obligations.CmdStatementIsOneWrite : Prop :=
  (∀ i : Instr, i.wf = true → (Statement.cmd i).expand = some [.wr 0x000C (encode i)]) ∧
  (∀ i : Instr, i.wf = false → (Statement.cmd i).expand = none) ∧
  (∀ k : BitVec 4, encode (.addRoundKey k) = 0x00000016 ||| (k.setWidth 32 <<< 8)) ∧
  ∀ i : Instr, (∀ k, i ≠ .addRoundKey k) → ∃ r ∈ opcodeMap, r.command 0 = i ∧ encode i = r.pattern

/-- 30_encoding.md R102, 20_memory.md R64 and 10_state.md R31: the four writes of `WRB 0x0020, b0 .. b15` on an idle machine load KEY with those bytes, first byte first, and clear RK_VALID. -/
def Obligations.WrbLoadsTheKey : Prop :=
  ∀ (s : State) (b : Block), s.busy = false →
    ∃ ws, packWords 0x0020 b.toList = some ws ∧
      ∃ rs, runBus (ws.map fun p => .write p.1 p.2) s = { s with key := b, rkValid := false, responses := rs }

/-! ## Steps, acceptance and completion -/

/-- A sequencer turn in a state that runs the word of command i is exec of i, at the state without the consumed event. -/
def Obligations.StepRunsDecodedCommand : Prop :=
  ∀ (s : State) (w : Word) (i : Instr), s.seq = .run w → decode w = .ok i →
    (s.inputs = [] → step s = exec i s) ∧
    ∀ rest, s.inputs = .sequencer :: rest → step s = exec i { s with inputs := rest }

/-- The other events of a step: a bus transaction, a reset, and the sequencer's turn in SELFTEST, in IDLE and in RUN of an illegal word, whether the turn is scheduled or no input is left (log entry 5). -/
def Obligations.StepPerformsTheNextEvent : Prop :=
  ∀ (s : State) (rest : List Input),
    (∀ r, s.inputs = .bus r :: rest → step s = .next (busTransaction r { s with inputs := rest })) ∧
    (∀ d, s.inputs = .reset d :: rest → step s = .next (({ s with inputs := rest } : State).assertReset d)) ∧
    (s.inputs = [] → s.seq = .selftest → step s = .next s.selfCheck) ∧
    (s.inputs = [] → s.seq = .idle → step s = .next s) ∧
    (∀ w, s.inputs = [] → s.seq = .run w → (∃ e, decode w = .error e) → step s = runIllegal s) ∧
    (s.inputs = .sequencer :: rest → s.seq = .selftest →
      step s = .next ({ s with inputs := rest } : State).selfCheck) ∧
    (s.inputs = .sequencer :: rest → s.seq = .idle → step s = .next { s with inputs := rest }) ∧
    (∀ w, s.inputs = .sequencer :: rest → s.seq = .run w → (∃ e, decode w = .error e) →
      step s = runIllegal { s with inputs := rest })

/-- No step stops the machine, since an error is a next state (60_exceptions.md R260), and once the outside world has no more to do, one more step completes whatever runs (R262, 70_reset_and_hazards.md R320).
The bound of one step per event is the model's (log entry 5). -/
def Obligations.EveryRunSettles : Prop :=
  (∀ s : State, ∃ t, step s = .next t) ∧
  (∀ (i : Instr) (s : State), ∃ t, exec i s = .next t) ∧
  ∀ s : State, ∃ t, Host.Core.run core (s.inputs.length + 1) s = .next t ∧ t.inputs = [] ∧ t.seq = .idle

/-- 60_exceptions.md R261: an accepted CMD write, and a CMD write while BUSY = 1. -/
def Obligations.CmdWriteIsAcceptedWhenIdle : Prop :=
  ∀ (s : State) (w : Word),
    (s.busy = false →
      s.busWrite 0x000C w = { s with cmd := w, done := false, err := .none, seq := .run w } ∧
      (s.busWrite 0x000C w).busy = true) ∧
    (s.busy = true → s.busWrite 0x000C w = { s with ovr := true })

/-- 60_exceptions.md R264 and R270: every command ends IDLE, not BUSY, with DONE set and one of its own codes. -/
def Obligations.CompletionBookkeeping : Prop :=
  ∀ (i : Instr) (s t : State), exec i s = .next t →
    t.seq = .idle ∧ t.busy = false ∧ t.done = true ∧ (i.wf = true → t.err ∈ raisedBy i)

/-- 60_exceptions.md R265: for every word, legal or not, an error writes nothing but the completion, except that a TAMPERED_CIPHERTEXT of OPEN has written RK and RK_VALID; CMD readback holds the failing word (in a state that meets the invariant, which says that the running word is the readback). -/
def Obligations.ErrorsAreAllOrNothing : Prop :=
  ∀ (w : Word) (s t : State), runWord w s = .next t →
    (t.err ≠ .none → t.err ≠ .tamperedCiphertext →
      t = { s with err := t.err, done := true, seq := .idle }) ∧
    (t.err = .tamperedCiphertext → decode w = .ok .openMsg ∧
      t = { s with rk := expand s.rom s.key, rkValid := true, err := .tamperedCiphertext, done := true, seq := .idle }) ∧
    (Inv s → s.seq = .run w → t.err ≠ .none → t.cmd = w)

/-- 60_exceptions.md R273: with SBOX_OK = 0 every command, legal or not, completes with SBOX_INIT_FAILURE and no other effect; only a reset ends this. -/
def Obligations.SboxFailureIsFatal : Prop :=
  (∀ (w : Word) (s : State), s.sboxOk = false → FailsWith (runWord w s) s .sboxInitFailure) ∧
  (∀ (i : Instr) (s : State), s.sboxOk = false → FailsWith (exec i s) s .sboxInitFailure) ∧
  (∀ s : State, s.rom.pairOk = false → s.selfCheck.sboxOk = false ∧ s.selfCheck.err = .sboxInitFailure) ∧
  (∀ s t : State, s.sboxOk = false → s.seq ≠ .selftest → step s = .next t → t.sboxOk = false) ∧
  Rom.standard.pairOk = true

/-! ## The field -/

/-- 40_field.md R111, R115: GF_ADD. -/
def Obligations.GfAddCommand : Prop :=
  encode .gfAdd = 0x00000001 ∧
  (∀ s : State, s.sboxOk = true →
    exec .gfAdd s = .next { s with gfP := s.gfA ^^^ s.gfB, err := .none, done := true, seq := .idle }) ∧
  (∀ a : Byte, gfAdd a a = 0) ∧ gfAdd 0x57 0x83 = 0xD4

/-- 40_field.md R116: GF_MUL, with its corner cases. -/
def Obligations.GfMulCommand : Prop :=
  encode .gfMul = 0x00000002 ∧
  (∀ s : State, s.sboxOk = true →
    exec .gfMul s = .next { s with gfP := gfMul s.gfA s.gfB, err := .none, done := true, seq := .idle }) ∧
  (∀ b : Byte, gfMul 0 b = 0 ∧ gfMul b 0 = 0 ∧ gfMul 1 b = b) ∧
  gfMul 0x80 0x02 = 0x1B ∧ gfMul 0xFF 0xFF = 0x13

/-- 40_field.md R112, R113: doubling as arithmetic modulo 0x11B, and the product as the sum of the doublings of a selected by the bits of b. -/
def Obligations.GfMulSumsDoublings : Prop :=
  (∀ d : Byte, (xtime d).toNat = ((2 * d.toNat) % 256) ^^^ (if 128 ≤ d.toNat then 0x1B else 0)) ∧
  ∀ a b : Byte, gfMul a b =
    (List.range 8).foldl (fun acc i => if b.getLsbD i then acc ^^^ (xtime^[i]) a else acc) 0

/-- 40_field.md R114: the field laws. -/
def Obligations.FieldLaws : Prop :=
  (∀ a b : Byte, gfMul a b = gfMul b a) ∧
  (∀ a b c : Byte, gfMul (gfMul a b) c = gfMul a (gfMul b c)) ∧
  (∀ a b c : Byte, gfMul a (gfAdd b c) = gfAdd (gfMul a b) (gfMul a c)) ∧
  (∀ a : Byte, gfMul 1 a = a ∧ gfMul 0 a = 0 ∧ gfAdd a a = 0) ∧
  ∀ a : Byte, a ≠ 0 → ∃! b : Byte, gfMul a b = 1

/-! ## The round transforms -/

/-- 41_round_transforms.md R132, R140, R141: SUB_BYTES and INV_SUB_BYTES replace every byte of STATE by its table entry, and write nothing else but the completion. -/
def Obligations.SubBytesCommands : Prop :=
  encode .subBytes = 0x00000010 ∧ encode .invSubBytes = 0x00000011 ∧
  (∀ s : State, s.sboxOk = true →
    (∃ t, exec .subBytes s = .next t ∧
      t = { s with state := t.state, err := .none, done := true, seq := .idle } ∧
      ∀ i : Fin 16, t.state[i] = s.rom.sub s.state[i]) ∧
    (∃ t, exec .invSubBytes s = .next t ∧
      t = { s with state := t.state, err := .none, done := true, seq := .idle } ∧
      ∀ i : Fin 16, t.state[i] = s.rom.subInv s.state[i])) ∧
  (∀ x : Byte, Rom.standard.sub x ≠ x) ∧
  Rom.standard.sub 0x00 = 0x63 ∧ Rom.standard.sub 0xFF = 0x16 ∧
  Rom.standard.subInv 0x00 = 0x52 ∧ Rom.standard.subInv 0xFF = 0x7D ∧
  ∀ s : State, s.sboxOk = true → s.rom.pairOk = true →
    ∃ t, runCommands [.subBytes, .invSubBytes] s = some t ∧ t.state = s.state

/-- 41_round_transforms.md R133, R142, R143: SHIFT_ROWS rotates row r left by r and INV_SHIFT_ROWS right by r; nothing else is written but the completion. -/
def Obligations.ShiftRowsCommands : Prop :=
  encode .shiftRows = 0x00000012 ∧ encode .invShiftRows = 0x00000013 ∧
  (∀ s : State, s.sboxOk = true →
    (∃ t, exec .shiftRows s = .next t ∧
      t = { s with state := t.state, err := .none, done := true, seq := .idle } ∧
      ∀ r c : Fin 4, t.state[r.val + 4 * c.val] = s.state[r.val + 4 * ((c.val + r.val) % 4)]) ∧
    (∃ t, exec .invShiftRows s = .next t ∧
      t = { s with state := t.state, err := .none, done := true, seq := .idle } ∧
      ∀ r c : Fin 4, t.state[r.val + 4 * ((c.val + r.val) % 4)] = s.state[r.val + 4 * c.val])) ∧
  (∀ b : Block,
    (shiftRows b).toList = ([0, 5, 10, 15, 4, 9, 14, 3, 8, 13, 2, 7, 12, 1, 6, 11] : List (Fin 16)).map (b[·]) ∧
    (shiftRowsInv b).toList = ([0, 13, 10, 7, 4, 1, 14, 11, 8, 5, 2, 15, 12, 9, 6, 3] : List (Fin 16)).map (b[·])) ∧
  ∀ s : State, s.sboxOk = true →
    (∃ t, runCommands [.shiftRows, .shiftRows, .shiftRows, .shiftRows] s = some t ∧ t.state = s.state) ∧
    (∃ t, runCommands [.shiftRows, .invShiftRows] s = some t ∧ t.state = s.state)

/-- 41_round_transforms.md R134, R135, R144, R145: MIX_COLUMNS and INV_MIX_COLUMNS multiply each column by their matrix, written out row by row; nothing else is written but the completion. -/
def Obligations.MixColumnsCommands : Prop :=
  encode .mixColumns = 0x00000014 ∧ encode .invMixColumns = 0x00000015 ∧
  (∀ s : State, s.sboxOk = true →
    (∃ t, exec .mixColumns s = .next t ∧
      t = { s with state := t.state, err := .none, done := true, seq := .idle } ∧
      ∀ (c : Fin 4) (a0 a1 a2 a3 : Byte), s.state[4 * c.val] = a0 → s.state[4 * c.val + 1] = a1 →
        s.state[4 * c.val + 2] = a2 → s.state[4 * c.val + 3] = a3 →
        t.state[4 * c.val] = gfMul 2 a0 ^^^ gfMul 3 a1 ^^^ a2 ^^^ a3 ∧
        t.state[4 * c.val + 1] = a0 ^^^ gfMul 2 a1 ^^^ gfMul 3 a2 ^^^ a3 ∧
        t.state[4 * c.val + 2] = a0 ^^^ a1 ^^^ gfMul 2 a2 ^^^ gfMul 3 a3 ∧
        t.state[4 * c.val + 3] = gfMul 3 a0 ^^^ a1 ^^^ a2 ^^^ gfMul 2 a3) ∧
    (∃ t, exec .invMixColumns s = .next t ∧
      t = { s with state := t.state, err := .none, done := true, seq := .idle } ∧
      ∀ (c : Fin 4) (a0 a1 a2 a3 : Byte), s.state[4 * c.val] = a0 → s.state[4 * c.val + 1] = a1 →
        s.state[4 * c.val + 2] = a2 → s.state[4 * c.val + 3] = a3 →
        t.state[4 * c.val] = gfMul 14 a0 ^^^ gfMul 11 a1 ^^^ gfMul 13 a2 ^^^ gfMul 9 a3 ∧
        t.state[4 * c.val + 1] = gfMul 9 a0 ^^^ gfMul 14 a1 ^^^ gfMul 11 a2 ^^^ gfMul 13 a3 ∧
        t.state[4 * c.val + 2] = gfMul 13 a0 ^^^ gfMul 9 a1 ^^^ gfMul 14 a2 ^^^ gfMul 11 a3 ∧
        t.state[4 * c.val + 3] = gfMul 11 a0 ^^^ gfMul 13 a1 ^^^ gfMul 9 a2 ^^^ gfMul 14 a3)) ∧
  ∀ a : Byte, gfMul 2 a ^^^ gfMul 3 a ^^^ a ^^^ a = a ∧
    gfMul 14 a ^^^ gfMul 11 a ^^^ gfMul 13 a ^^^ gfMul 9 a = a

/-- 41_round_transforms.md R136, R146: ADD_ROUND_KEY k for every k a command word can hold: 0..10 with and without RK_VALID, and 11..15, which is ILLEGAL_COMMAND; k = 0 is the master key itself.
That the term with k of 11..15, which no word decodes to, runs as an illegal command is the model's (log entry 8). -/
def Obligations.AddRoundKeyCommand : Prop :=
  (∀ k : BitVec 4, encode (.addRoundKey k) = 0x00000016 ||| (k.setWidth 32 <<< 8)) ∧
  (∀ (s : State) (k : BitVec 4), s.sboxOk = true →
    (11 ≤ k.toNat → FailsWith (exec (.addRoundKey k) s) s .illegalCommand) ∧
    (k.toNat ≤ 10 → s.rkValid = false → FailsWith (exec (.addRoundKey k) s) s .keyNotExpanded) ∧
    ∀ h : k.toNat ≤ 10, s.rkValid = true →
      ∃ t, exec (.addRoundKey k) s = .next t ∧
        t = { s with state := t.state, err := .none, done := true, seq := .idle } ∧
        (∀ i : Fin 16, t.state[i] = s.state[i] ^^^ (s.rk[k.toNat])[i]) ∧
        ∃ u, runCommands [.addRoundKey k, .addRoundKey k] s = some u ∧ u.state = s.state) ∧
  ∀ (rom : Rom) (key b : Block), addRoundKey b (expand rom key)[0] = xor16 b key

/-- 41_round_transforms.md R137: each transform and its inverse undo each other, in both orders. -/
def Obligations.TransformsAreInverse : Prop :=
  ∀ (rom : Rom) (b k : Block), rom.pairOk = true →
    subBytesInv rom (subBytes rom b) = b ∧ subBytes rom (subBytesInv rom b) = b ∧
    shiftRowsInv (shiftRows b) = b ∧ shiftRows (shiftRowsInv b) = b ∧
    mixColumnsInv (mixColumns b) = b ∧ mixColumns (mixColumnsInv b) = b ∧
    addRoundKey (addRoundKey b k) k = b

/-! ## Keys and blocks -/

/-- 42_key_schedule.md R160-R162: word i of Expand(K), byte by byte, from the master key and the recurrence. -/
def Obligations.KeyScheduleRecurrence : Prop :=
  ∀ (rom : Rom) (key : Block) (word : Nat → Nat → Byte),
    (∀ (i b : Nat) (_ : i < 44) (_ : b < 4), word i b = ((expand rom key)[i / 4])[4 * (i % 4) + b]) →
    (∀ (i b : Nat) (_ : i < 4) (_ : b < 4), word i b = key[4 * i + b]) ∧
    (∀ i b : Nat, 4 ≤ i → i < 44 → b < 4 → i % 4 ≠ 0 → word i b = word (i - 4) b ^^^ word (i - 1) b) ∧
    ∀ i b : Nat, 4 ≤ i → i < 44 → b < 4 → i % 4 = 0 →
      word i b = word (i - 4) b ^^^
        (if b = 0 then ([0x01, 0x02, 0x04, 0x08, 0x10, 0x20, 0x40, 0x80, 0x1B, 0x36] : List Byte).getD (i / 4 - 1) 0
          else 0) ^^^ rom.sub (word (i - 1) ((b + 1) % 4))

/-- 42_key_schedule.md R165: EXPAND_KEY, for every key, with its corner cases: RK stays valid across every other command, and only SEAL and OPEN make it valid besides. -/
def Obligations.ExpandKeyCommand : Prop :=
  encode .expandKey = 0x00000020 ∧
  (∀ s : State, s.sboxOk = true →
    exec .expandKey s =
      .next { s with rk := expand s.rom s.key, rkValid := true, err := .none, done := true, seq := .idle } ∧
    ∃ t u, exec .expandKey s = .next t ∧ exec .expandKey t = .next u ∧ u.rk = t.rk) ∧
  (∀ (i : Instr) (s t : State), exec i s = .next t →
    (s.rkValid = true → t.rkValid = true) ∧
    (s.rkValid = false → t.rkValid = true → i = .expandKey ∨ i = .sealMsg ∨ i = .openMsg)) ∧
  (∀ (rom : Rom) (key : Block), (expand rom key)[0] = key) ∧
  (expand Rom.standard Block.zero)[1] =
    #v[0x62, 0x63, 0x63, 0x63, 0x62, 0x63, 0x63, 0x63, 0x62, 0x63, 0x63, 0x63, 0x62, 0x63, 0x63, 0x63]

/-- 43_block_cipher.md R182, R183: ENCRYPT_BLOCK and DECRYPT_BLOCK with RK_VALID = 1, and KEY_NOT_EXPANDED without. -/
def Obligations.BlockCommands : Prop :=
  encode .encryptBlock = 0x00000030 ∧ encode .decryptBlock = 0x00000031 ∧
  (∀ s : State, s.sboxOk = true → s.rkValid = true →
    exec .encryptBlock s =
      .next { s with state := encrypt s.rom s.state s.rk, err := .none, done := true, seq := .idle } ∧
    exec .decryptBlock s =
      .next { s with state := decrypt s.rom s.state s.rk, err := .none, done := true, seq := .idle }) ∧
  (∀ s : State, s.sboxOk = true → s.rkValid = false →
    FailsWith (exec .encryptBlock s) s .keyNotExpanded ∧ FailsWith (exec .decryptBlock s) s .keyNotExpanded) ∧
  (∀ s : State, s.sboxOk = true → s.rkValid = true → s.rom.pairOk = true →
    ∃ t, runCommands [.encryptBlock, .decryptBlock] s = some t ∧ t.state = s.state) ∧
  encrypt Rom.standard Block.zero (expand Rom.standard Block.zero) =
    #v[0x66, 0xe9, 0x4b, 0xd4, 0xef, 0x8a, 0x2c, 0x3b, 0x88, 0x4c, 0xfa, 0x59, 0xca, 0x34, 0x2b, 0x2e] ∧
  decrypt Rom.standard Block.zero (expand Rom.standard Block.zero) =
    #v[0x14, 0x0f, 0x0f, 0x10, 0x11, 0xb5, 0x22, 0x3d, 0x79, 0x58, 0x77, 0x17, 0xff, 0xd9, 0xec, 0x3a]

/-- 43_block_cipher.md R186: the single-step commands in the order of R180 and R181 leave the state that the one-shot command leaves. -/
def Obligations.RoundByRoundEqualsOneShot : Prop :=
  ∀ s : State, s.sboxOk = true → s.rkValid = true →
    (∃ t, exec .encryptBlock s = .next t ∧ runCommands encryptByRounds s = some t) ∧
    (∃ t, exec .decryptBlock s = .next t ∧ runCommands decryptByRounds s = some t)

/-- 43_block_cipher.md R184: decryption inverts encryption under every key, and for every set of round keys encryption is a permutation of the blocks. -/
def Obligations.DecryptInvertsEncrypt : Prop :=
  ∀ rom : Rom, rom.pairOk = true →
    (∀ key p : Block, decrypt rom (encrypt rom p (expand rom key)) (expand rom key) = p) ∧
    ∀ rk : RoundKeys, Function.Bijective fun p => encrypt rom p rk

/-! ## Modes -/

/-- 44_modes.md R201: bytes 0..7 of a counter block are zero and bytes 8..15 are the counter, most significant byte first. -/
def Obligations.CounterBlockLayout : Prop :=
  (∀ (v : Nat) (i : Fin 8), v < 2 ^ 64 →
    (counterBlock v)[i.val] = 0 ∧ ((counterBlock v)[8 + i.val]).toNat = (v >>> (8 * (7 - i.val))) % 256) ∧
  ∀ v : Nat, v < 2 ^ 64 → (counterBlock v).toList.foldl (fun n b => 256 * n + b.toNat) 0 = v

/-- 44_modes.md R202, R205: CTR_APPLY: its checks in their order, its result byte by byte, and that running it twice gives the padded original. -/
def Obligations.CtrApplyCommand : Prop :=
  encode .ctrApply = 0x00000040 ∧
  ∀ (s : State) (nb C : Nat), s.sboxOk = true → nb = (s.len.toNat + 15) / 16 →
    C = s.ctrHi.toNat * 2 ^ 32 + s.ctrLo.toNat →
    (s.rkValid = false → FailsWith (exec .ctrApply s) s .keyNotExpanded) ∧
    (s.rkValid = true → s.len.toNat > s.bufBytes → FailsWith (exec .ctrApply s) s .lengthOutOfRange) ∧
    (s.rkValid = true → s.len.toNat ≤ s.bufBytes → nb ≥ 1 → C + nb - 1 > 2 ^ 64 - 1 →
      FailsWith (exec .ctrApply s) s .counterOverflow) ∧
    (s.rkValid = true → s.len.toNat ≤ s.bufBytes → (nb = 0 ∨ C + nb - 1 ≤ 2 ^ 64 - 1) → s.buf.wf →
      ∃ t, exec .ctrApply s = .next t ∧
        t = { s with buf := t.buf, len := t.len, err := .none, done := true, seq := .idle } ∧
        t.len.toNat = 16 * nb ∧ SameBufOutside 0 (16 * nb) s t ∧
        ∀ (j : Nat) (i : Fin 16), j < nb →
          t.buf.read (16 * j + i.val) =
            (if 16 * j + i.val < s.len.toNat then s.buf.read (16 * j + i.val) else 0) ^^^
              (encrypt s.rom (counterBlock (C + j)) s.rk)[i]) ∧
    (s.rkValid = true → s.len.toNat ≤ s.bufBytes → (nb = 0 ∨ C + nb - 1 ≤ 2 ^ 64 - 1) → s.buf.wf →
      ∃ u, runCommands [.ctrApply, .ctrApply] s = some u ∧ u.err = .none ∧ u.len.toNat = 16 * nb ∧
        ∀ n, n < 16 * nb → u.buf.read n = if n < s.len.toNat then s.buf.read n else 0)

/-- 44_modes.md R204: applying the CTR stream twice gives the padded message. -/
def Obligations.CtrApplyIsInvolution : Prop :=
  ∀ (rom : Rom) (m : List Byte) (rk : RoundKeys) (c : Nat), c + blockCount m.length - 1 ≤ 2 ^ 64 - 1 →
    ctrApply rom (ctrApply rom m rk c) rk c = m ++ List.replicate (pad16 m.length - m.length) 0

/-- 44_modes.md R210, R211: the MAC of no blocks is zeros(16), and one more block enters the chain by one encryption of its xor with the MAC so far. -/
def Obligations.CbcMacChains : Prop :=
  ∀ (rom : Rom) (rk : RoundKeys),
    cbcMac rom [] rk = Block.zero ∧
    ∀ (m : List Byte) (b : Block), m.length % 16 = 0 →
      cbcMac rom (m ++ b.toList) rk = encrypt rom (xor16 b (cbcMac rom m rk)) rk

/-- 44_modes.md R212: CBC_MAC: its checks in their order, its result, that BUF and LEN stay, and the tags of no block, one block, and two zero blocks. -/
def Obligations.CbcMacCommand : Prop :=
  encode .cbcMac = 0x00000041 ∧
  ∀ s : State, s.sboxOk = true →
    (s.rkValid = false → FailsWith (exec .cbcMac s) s .keyNotExpanded) ∧
    (s.rkValid = true → s.len.toNat > s.bufBytes → FailsWith (exec .cbcMac s) s .lengthOutOfRange) ∧
    (s.rkValid = true → s.len.toNat ≤ s.bufBytes → s.len.toNat % 16 ≠ 0 →
      FailsWith (exec .cbcMac s) s .invalidMacInputLength) ∧
    (s.rkValid = true → s.len.toNat ≤ s.bufBytes → s.len.toNat % 16 = 0 →
      exec .cbcMac s =
        .next { s with
          tag := cbcMac s.rom ((List.range s.len.toNat).map s.buf.read) s.rk
          err := .none, done := true, seq := .idle }) ∧
    (s.rkValid = true → s.len = 0 → ∃ t, exec .cbcMac s = .next t ∧ t.err = .none ∧ t.tag = Block.zero) ∧
    (s.rkValid = true → s.len = 16 → ∃ t, exec .cbcMac s = .next t ∧ t.err = .none ∧
      t.tag = encrypt s.rom (Vector.ofFn fun i : Fin 16 => s.buf.read i.val) s.rk) ∧
    (s.rkValid = true → s.len = 32 → (∀ n, n < 32 → s.buf.read n = 0) → ∃ t, exec .cbcMac s = .next t ∧ t.err = .none ∧
      t.tag = encrypt s.rom (encrypt s.rom Block.zero s.rk) s.rk)

/-- 44_modes.md R214: two messages of one length that differ in exactly one block have different MACs. -/
def Obligations.OneBlockChangesTheMac : Prop :=
  ∀ (rom : Rom) (rk : RoundKeys) (before after : List Byte) (b b' : Block), rom.pairOk = true →
    before.length % 16 = 0 → after.length % 16 = 0 → b ≠ b' →
    cbcMac rom (before ++ b.toList ++ after) rk ≠ cbcMac rom (before ++ b'.toList ++ after) rk

/-! ## The authenticated cipher -/

/-- 45_authenticated.md R230, R231: SEAL: its checks in their order, and its result byte by byte. -/
def Obligations.SealCommand : Prop :=
  encode .sealMsg = 0x00000050 ∧
  ∀ (s : State) (nb C : Nat), s.sboxOk = true → nb = (s.len.toNat + 15) / 16 →
    C = s.ctrHi.toNat * 2 ^ 32 + s.ctrLo.toNat →
    (s.len.toNat > s.bufBytes - 16 → FailsWith (exec .sealMsg s) s .lengthOutOfRange) ∧
    (s.len.toNat ≤ s.bufBytes - 16 → nb ≥ 1 → C + nb - 1 > 2 ^ 64 - 1 →
      FailsWith (exec .sealMsg s) s .counterOverflow) ∧
    (s.len.toNat ≤ s.bufBytes - 16 → (nb = 0 ∨ C + nb - 1 ≤ 2 ^ 64 - 1) → s.buf.wf →
      ∃ t, exec .sealMsg s = .next t ∧
        t = { s with
          rk := expand s.rom s.key, rkValid := true, buf := t.buf, tag := t.tag, len := t.len
          err := .none, done := true, seq := .idle } ∧
        t.len.toNat = 16 * nb + 16 ∧ SameBufOutside 0 (16 * nb + 16) s t ∧
        (∀ (j : Nat) (i : Fin 16), j < nb →
          t.buf.read (16 * j + i.val) =
            (if 16 * j + i.val < s.len.toNat then s.buf.read (16 * j + i.val) else 0) ^^^
              (encrypt s.rom (counterBlock (C + j)) (expand s.rom s.key))[i]) ∧
        t.tag = cbcMac s.rom ((List.range (16 * nb)).map t.buf.read) (expand s.rom s.key) ∧
        (∀ i : Fin 16, t.buf.read (16 * nb + i.val) = t.tag[i]) ∧
        (s.len = 0 → t.len = 16 ∧ t.tag = Block.zero))

/-- 45_authenticated.md R234, R235, R238: OPEN: its checks in their order, the tag verdict, both outcomes byte by byte, and the 16-byte string.
A mismatch writes RK and RK_VALID only; TAG is never written. -/
def Obligations.OpenCommand : Prop :=
  encode .openMsg = 0x00000051 ∧
  ∀ (s : State) (nb C : Nat) (et : Block), s.sboxOk = true → nb = (s.len.toNat - 16) / 16 →
    C = s.ctrHi.toNat * 2 ^ 32 + s.ctrLo.toNat →
    et = cbcMac s.rom ((List.range (s.len.toNat - 16)).map s.buf.read) (expand s.rom s.key) →
    (s.len.toNat > s.bufBytes → FailsWith (exec .openMsg s) s .lengthOutOfRange) ∧
    (s.len.toNat ≤ s.bufBytes → (s.len.toNat < 16 ∨ (s.len.toNat - 16) % 16 ≠ 0) →
      FailsWith (exec .openMsg s) s .invalidMacInputLength) ∧
    (s.len.toNat ≤ s.bufBytes → 16 ≤ s.len.toNat → s.len.toNat % 16 = 0 → nb ≥ 1 → C + nb - 1 > 2 ^ 64 - 1 →
      FailsWith (exec .openMsg s) s .counterOverflow) ∧
    (s.len.toNat ≤ s.bufBytes → 16 ≤ s.len.toNat → s.len.toNat % 16 = 0 → (nb = 0 ∨ C + nb - 1 ≤ 2 ^ 64 - 1) →
      (∃ i : Fin 16, et[i] ≠ s.buf.read (16 * nb + i.val)) →
      exec .openMsg s =
        .next { s with
          rk := expand s.rom s.key, rkValid := true
          err := .tamperedCiphertext, done := true, seq := .idle }) ∧
    (s.len.toNat ≤ s.bufBytes → 16 ≤ s.len.toNat → s.len.toNat % 16 = 0 → (nb = 0 ∨ C + nb - 1 ≤ 2 ^ 64 - 1) →
      (∀ i : Fin 16, et[i] = s.buf.read (16 * nb + i.val)) → s.buf.wf →
      ∃ t, exec .openMsg s = .next t ∧
        t = { s with
          rk := expand s.rom s.key, rkValid := true, buf := t.buf, len := t.len
          err := .none, done := true, seq := .idle } ∧
        t.len.toNat = 16 * nb ∧ SameBufOutside 0 (16 * nb) s t ∧
        ∀ (j : Nat) (i : Fin 16), j < nb →
          t.buf.read (16 * j + i.val) =
            s.buf.read (16 * j + i.val) ^^^ (encrypt s.rom (counterBlock (C + j)) (expand s.rom s.key))[i]) ∧
    (s.len = 16 → (∀ i, i < 16 → s.buf.read i = 0) → ∃ t, exec .openMsg s = .next t ∧ t.err = .none ∧ t.len = 0) ∧
    (s.len = 16 → (∃ i, i < 16 ∧ s.buf.read i ≠ 0) → ∃ t, exec .openMsg s = .next t ∧ t.err = .tamperedCiphertext)

/-- 45_authenticated.md R241: from every state in which SEAL succeeds, OPEN after it succeeds and gives back the padded plaintext, its LEN, and the tag still in place. -/
def Obligations.OpenUndoesSeal : Prop :=
  ∀ s t : State, s.buf.wf → exec .sealMsg s = .next t → t.err = .none →
    ∃ u, exec .openMsg t = .next u ∧ u.err = .none ∧ u.len.toNat = pad16 s.len.toNat ∧
      (∀ i, i < s.len.toNat → u.buf.read i = s.buf.read i) ∧
      (∀ i, s.len.toNat ≤ i → i < pad16 s.len.toNat → u.buf.read i = 0) ∧
      (∀ i, pad16 s.len.toNat ≤ i → u.buf.read i = t.buf.read i)

/-- 45_authenticated.md R240: from every state in which SEAL succeeds, one flipped bit anywhere in the sealed string makes OPEN end with TAMPERED_CIPHERTEXT, with BUF, LEN and TAG as they were. -/
def Obligations.FlippedBitIsRejected : Prop :=
  ∀ (s t v : State) (i : Nat) (b : Fin 8), s.buf.wf → s.rom.pairOk = true →
    exec .sealMsg s = .next t → t.err = .none → i < t.len.toNat →
    v = { t with buf := t.buf.write i (t.buf.read i ^^^ (1 <<< b.val)) } →
    ∃ u, exec .openMsg v = .next u ∧ u.err = .tamperedCiphertext ∧ SameBuf v u ∧ u.len = v.len ∧ u.tag = v.tag

/-- 45_authenticated.md R239, R242: the sealed empty message is zeros(16) under every key and counter and opens as empty; any counter passes the tag check and yields CtrApply of the ciphertext under it, and a wrong one yields something else than the padded plaintext. -/
def Obligations.TagCoversCiphertextOnly : Prop :=
  ∀ (rom : Rom) (key : Block),
    (∀ c : Nat, sealString rom [] key c = List.replicate 16 0 ∧
      openString rom (List.replicate 16 0) key c = some []) ∧
    ∀ (pt : List Byte) (c c' : Nat),
      openString rom (sealString rom pt key c) key c' =
        some (ctrApply rom (ctrApply rom pt (expand rom key) c) (expand rom key) c') ∧
      (rom.pairOk = true → pt ≠ [] → c < 2 ^ 64 → c' < 2 ^ 64 → c ≠ c' →
        ctrApply rom (ctrApply rom pt (expand rom key) c) (expand rom key) c' ≠ padMessage pt)

/-- 45_authenticated.md R237 with 70_reset_and_hazards.md R312, R313: whatever the host does on the bus while an OPEN runs, if the OPEN ends with TAMPERED_CIPHERTEXT then BUF, STATE, LEN and TAG are as they were at acceptance, and every read of anything but ID, CTRL and STATUS meanwhile answered 0. -/
def Obligations.RejectedOpenReleasesNothing : Prop :=
  ∀ (s u t : State) (rs : List BusRequest), s.seq = .run (encode .openMsg) → u = runBus rs s →
    sequencerTurn u = .next t → t.err = .tamperedCiphertext →
    t.buf = s.buf ∧ t.state = s.state ∧ t.len = s.len ∧ t.tag = s.tag ∧
    ∀ (a : Addr) (x : Target), s.target a = some x → x.readableWhileBusy = false → u.busRead a = ⟨0, false⟩

/-- 20_memory.md R84 and 60_exceptions.md R264: no bus traffic while a command runs changes what the command does: the completion differs at most in CTRL.IE, STATUS.OVR and the responses. -/
def Obligations.RunningCommandIsIsolated : Prop :=
  ∀ (s : State) (w : Word) (rs : List BusRequest), s.seq = .run w →
    ∃ t u, sequencerTurn s = .next t ∧ sequencerTurn (runBus rs s) = .next u ∧
      hideHostTraffic u = hideHostTraffic t

/-! ## Frames -/

/-- 30_encoding.md R95: no command writes the host's registers CTRL, CMD, GF.A, GF.B, CTR, KEY, STATUS.OVR, STATUS.SBOX_OK, the tables, or the record of the outside world. -/
def Obligations.CommandsLeaveHostSideAlone : Prop :=
  ∀ (i : Instr) (s t : State), exec i s = .next t → SameHostSide s t

/-- 30_encoding.md R95: each result register is written only by the commands that list it: GF.P by GF_ADD and GF_MUL; STATE by the transforms and the block commands; TAG by CBC_MAC and SEAL; LEN by CTR_APPLY, SEAL and OPEN; RK and RK_VALID by EXPAND_KEY, SEAL and OPEN. -/
def Obligations.CommandsWriteOnlyTheirResults : Prop :=
  ∀ (i : Instr) (s t : State), exec i s = .next t →
    (i ≠ .gfAdd → i ≠ .gfMul → t.gfP = s.gfP) ∧
    (i ≠ .subBytes → i ≠ .invSubBytes → i ≠ .shiftRows → i ≠ .invShiftRows → i ≠ .mixColumns →
      i ≠ .invMixColumns → (∀ k, i ≠ .addRoundKey k) → i ≠ .encryptBlock → i ≠ .decryptBlock →
      t.state = s.state) ∧
    (i ≠ .cbcMac → i ≠ .sealMsg → t.tag = s.tag) ∧
    (i ≠ .ctrApply → i ≠ .sealMsg → i ≠ .openMsg → t.len = s.len) ∧
    (i ≠ .expandKey → i ≠ .sealMsg → i ≠ .openMsg → t.rk = s.rk ∧ t.rkValid = s.rkValid)

/-- 30_encoding.md R95: which bytes of BUF a command may change: none for a command that stores nothing, BUF[0..pad16(LEN)) for CTR_APPLY, BUF[0..pad16(LEN)+16) for SEAL, BUF[0..LEN-16) for OPEN. -/
def Obligations.CommandsStoreOnlyTheirMessage : Prop :=
  ∀ (i : Instr) (s t : State), exec i s = .next t →
    (i ≠ .ctrApply → i ≠ .sealMsg → i ≠ .openMsg → SameBuf s t) ∧
    (i = .ctrApply → SameBufOutside 0 (pad16 s.len.toNat) s t) ∧
    (i = .sealMsg → SameBufOutside 0 (pad16 s.len.toNat + 16) s t) ∧
    (i = .openMsg → SameBufOutside 0 (s.len.toNat - 16) s t)

/-- 30_encoding.md R95: what a command writes depends on nothing but the operands R95 lists for it (with SBOX_OK and the constants of the part): from two states that agree on them it ends with one code and one set of results. -/
def Obligations.CommandsReadOnlyTheirOperands : Prop :=
  ∀ (i : Instr) (s s' t t' : State), SameOperands i s s' → s.buf.wf → s'.buf.wf →
    exec i s = .next t → exec i s' = .next t' → t.err = t'.err ∧ (t.err = .none → SameResults i s t t')

/-- 10_state.md R35: RK_VALID rises only at the completion of EXPAND_KEY, SEAL or OPEN, in a turn of the sequencer, and falls only at a reset or an accepted write to a KEY word.
Which event a step performs stands in State.inputs, the model's choice (log entry 5). -/
def Obligations.RkValidChangesOnlyByRule : Prop :=
  ∀ s t : State, step s = .next t →
    (s.rkValid = false → t.rkValid = true →
      (s.inputs = [] ∨ ∃ rest, s.inputs = .sequencer :: rest) ∧ t.seq = .idle ∧ t.done = true ∧
      ∃ w i, s.seq = .run w ∧ decode w = .ok i ∧ (i = .expandKey ∨ i = .sealMsg ∨ i = .openMsg)) ∧
    (s.rkValid = true → t.rkValid = false →
      (∃ d rest, s.inputs = .reset d :: rest) ∨
      ∃ a v rest, s.inputs = .bus (.write a v) :: rest ∧ s.busy = false ∧ 0x0020 ≤ a.toNat ∧ a.toNat < 0x0030 ∧
        a.toNat % 4 = 0)

/-! ## The bus -/

/-- 20_memory.md R62, R70, R71: an access is a bus error exactly when it is misaligned or unmapped, whether BUSY or not; it changes nothing and answers data 0. -/
def Obligations.BusErrorsExactly : Prop :=
  ∀ (s : State) (a : Addr) (v : Word) (bad : Prop),
    (bad ↔ a.toNat % 4 ≠ 0 ∨ (0x0050 ≤ a.toNat ∧ a.toNat < 0x0100) ∨ (0x01B0 ≤ a.toNat ∧ a.toNat < 0x1000) ∨
      0x1000 + s.bufBytes ≤ a.toNat) →
    (bad → busTransaction (.read a) s = { s with responses := ⟨0, true⟩ :: s.responses } ∧
      busTransaction (.write a v) s = { s with responses := ⟨0, true⟩ :: s.responses }) ∧
    (¬bad → (s.busRead a).err = false ∧ s.busWriteResponse a = ⟨0, false⟩)

/-- 20_memory.md R61, R68 and 10_state.md R22: each transaction gets exactly one response, and a read changes nothing else. -/
def Obligations.ReadsHaveNoSideEffect : Prop :=
  ∀ (s : State) (a : Addr) (v : Word),
    busTransaction (.read a) s = { s with responses := s.busRead a :: s.responses } ∧
    (busTransaction (.write a v) s).responses = s.busWriteResponse a :: s.responses

/-- 70_reset_and_hazards.md R312: while BUSY = 1 an aligned write to any mapped address but CTRL and STATUS only sets OVR, and a misaligned or unmapped one is a bus error that does not. -/
def Obligations.BusyWritesOnlySetOverrun : Prop :=
  ∀ (s : State) (a : Addr) (v : Word) (mapped : Prop), s.busy = true →
    (mapped ↔ a.toNat < 0x0050 ∨ (0x0100 ≤ a.toNat ∧ a.toNat < 0x01B0) ∨
      (0x1000 ≤ a.toNat ∧ a.toNat < 0x1000 + s.bufBytes)) →
    (a.toNat % 4 = 0 → mapped → a.toNat ≠ 0x0004 → a.toNat ≠ 0x0008 →
      busTransaction (.write a v) s = { s with ovr := true, responses := ⟨0, false⟩ :: s.responses }) ∧
    (a.toNat % 4 ≠ 0 ∨ ¬mapped →
      busTransaction (.write a v) s = { s with responses := ⟨0, true⟩ :: s.responses })

/-- 70_reset_and_hazards.md R313: while BUSY = 1 an aligned read of any mapped address but ID, CTRL and STATUS answers 0; those three answer their value at any time. -/
def Obligations.BusyReadsAnswerZero : Prop :=
  ∀ (s : State) (a : Addr), a.toNat % 4 = 0 →
    (s.busy = true →
      ((0x000C ≤ a.toNat ∧ a.toNat < 0x0050) ∨ (0x0100 ≤ a.toNat ∧ a.toNat < 0x01B0) ∨
        (0x1000 ≤ a.toNat ∧ a.toNat < 0x1000 + s.bufBytes)) →
      s.busRead a = ⟨0, false⟩) ∧
    (a.toNat = 0x0000 → s.busRead a = ⟨0x41455331, false⟩) ∧
    (a.toNat = 0x0004 → s.busRead a = ⟨s.ctrlWord, false⟩) ∧
    (a.toNat = 0x0008 → s.busRead a = ⟨s.statusWord, false⟩)

/-- 10_state.md R22, R25, R28-R30, R33, R36 and 20_memory.md R63: what a write to an RW word stores, that it changes nothing else, and that the word reads back as written.
LEN, CTR_LO, CTR_HI and the words of KEY, STATE and BUF while BUSY = 0; STATE and BUF by byte lane; GF with P kept and bits 31:24 zero; CTRL at any time, with bits 31:1 zero. -/
def Obligations.WritableWordsReadBack : Prop :=
  ∀ (s : State) (a : Addr) (v : Word), a.toNat % 4 = 0 →
    (s.busy = false → s.buf.wf →
      a.toNat = 0x0010 ∨ (0x0018 ≤ a.toNat ∧ a.toNat < 0x0040) ∨
        (0x1000 ≤ a.toNat ∧ a.toNat < 0x1000 + s.bufBytes) →
      (s.busWrite a v).busRead a = ⟨v, false⟩) ∧
    (s.busy = false → a.toNat = 0x0010 → s.busWrite a v = { s with len := v }) ∧
    (s.busy = false → a.toNat = 0x0018 → s.busWrite a v = { s with ctrLo := v }) ∧
    (s.busy = false → a.toNat = 0x001C → s.busWrite a v = { s with ctrHi := v }) ∧
    (s.busy = false → a.toNat = 0x0014 →
      s.busWrite a v = { s with gfA := v.extractLsb' 0 8, gfB := v.extractLsb' 8 8 } ∧
      (s.busWrite a v).busRead a = ⟨(0#8 ++ s.gfP) ++ v.extractLsb' 0 16, false⟩) ∧
    (s.busy = false → 0x0030 ≤ a.toNat → a.toNat < 0x0040 →
      ∃ t, s.busWrite a v = t ∧ t = { s with state := t.state } ∧
        ∀ i : Fin 16, t.state[i] =
          if 0x0030 + i.val < a.toNat ∨ a.toNat + 4 ≤ 0x0030 + i.val then s.state[i]
          else v.extractLsb' (8 * (0x0030 + i.val - a.toNat)) 8) ∧
    (s.busy = false → s.buf.wf → 0x1000 ≤ a.toNat → a.toNat < 0x1000 + s.bufBytes →
      ∃ t, s.busWrite a v = t ∧ t = { s with buf := t.buf } ∧
        ∀ i : Nat, t.buf.read i =
          if 0x1000 + i < a.toNat ∨ a.toNat + 4 ≤ 0x1000 + i then s.buf.read i
          else v.extractLsb' (8 * (0x1000 + i - a.toNat)) 8) ∧
    (a.toNat = 0x0004 →
      s.busWrite a v = { s with ie := v.getLsbD 0 } ∧
      (s.busRead a).err = false ∧ (s.busRead a).data.getLsbD 0 = s.ie ∧ (s.busRead a).data.extractLsb' 1 31 = 0 ∧
      (s.busWrite a v).busRead a = ⟨v &&& 1, false⟩)

/-- 10_state.md R24, R27, R30-R32, R36 and 20_memory.md R63: what a read answers while BUSY = 0: the CMD readback, the bytes of KEY, STATE, TAG and BUF in little-endian lanes, and the four bytes of ID. -/
def Obligations.IdleReadsInByteLanes : Prop :=
  ∀ (s : State) (a : Addr) (i : Nat) (b : Fin 4), s.busy = false →
    (a.toNat = 0x000C → s.busRead a = ⟨s.cmd, false⟩) ∧
    (a.toNat = 0x0000 → (s.busRead a).err = false ∧
      (s.busRead a).data.extractLsb' (8 * b.val) 8 = (#v[0x31, 0x53, 0x45, 0x41] : Vector Byte 4)[b]) ∧
    (∀ h : i < 4, a.toNat = 0x0020 + 4 * i → (s.busRead a).err = false ∧
      (s.busRead a).data.extractLsb' (8 * b.val) 8 = s.key[4 * i + b.val]) ∧
    (∀ h : i < 4, a.toNat = 0x0030 + 4 * i → (s.busRead a).err = false ∧
      (s.busRead a).data.extractLsb' (8 * b.val) 8 = s.state[4 * i + b.val]) ∧
    (∀ h : i < 4, a.toNat = 0x0040 + 4 * i → (s.busRead a).err = false ∧
      (s.busRead a).data.extractLsb' (8 * b.val) 8 = s.tag[4 * i + b.val]) ∧
    (4 * i < s.bufBytes → a.toNat = 0x1000 + 4 * i → (s.busRead a).err = false ∧
      (s.busRead a).data.extractLsb' (8 * b.val) 8 = s.buf.read (4 * i + b.val))

/-- 10_state.md R31, R35 and 20_memory.md R63: a KEY write while BUSY = 0 stores its four bytes in little-endian lanes, clears RK_VALID and changes nothing else. -/
def Obligations.KeyWriteClearsRkValid : Prop :=
  ∀ (s : State) (a : Addr) (v : Word), s.busy = false → a.toNat % 4 = 0 → 0x0020 ≤ a.toNat → a.toNat < 0x0030 →
    ∃ t, s.busWrite a v = t ∧ t = { s with key := t.key, rkValid := false } ∧
      ∀ i : Fin 16, t.key[i] =
        if 0x0020 + i.val < a.toNat ∨ a.toNat + 4 ≤ 0x0020 + i.val then s.key[i]
        else v.extractLsb' (8 * (0x0020 + i.val - a.toNat)) 8

/-- 20_memory.md R72: a write to ID, TAG or RK while BUSY = 0 is answered normally and changes nothing. -/
def Obligations.ReadOnlyWordsIgnoreWrites : Prop :=
  ∀ (s : State) (a : Addr) (v : Word), s.busy = false → a.toNat % 4 = 0 →
    (a.toNat = 0x0000 ∨ (0x0040 ≤ a.toNat ∧ a.toNat < 0x0050) ∨ (0x0100 ≤ a.toNat ∧ a.toNat < 0x01B0)) →
    busTransaction (.write a v) s = { s with responses := ⟨0, false⟩ :: s.responses }

/-- 10_state.md R34: while BUSY = 0 the word at 0x0100 + 16k + 4j reads bytes 4j..4j+3 of RK[k] in little-endian lanes if RK_VALID = 1, and 0 if not. -/
def Obligations.RoundKeysReadBack : Prop :=
  ∀ (s : State) (a : Addr) (k : Fin 11) (j b : Fin 4), s.busy = false →
    a.toNat = 0x0100 + 16 * k.val + 4 * j.val →
    (s.busRead a).err = false ∧
    (s.rkValid = false → (s.busRead a).data = 0) ∧
    (s.rkValid = true → (s.busRead a).data.extractLsb' (8 * b.val) 8 = (s.rk[k])[4 * j.val + b.val])

/-- 10_state.md R26: where each field of the STATUS word stands, and what a write to STATUS does, busy or not. -/
def Obligations.StatusRegister : Prop :=
  ∀ (s : State) (v : Word),
    (s.busRead 0x0008).data.getLsbD 0 = s.busy ∧ (s.busRead 0x0008).data.getLsbD 1 = s.done ∧
    (s.busRead 0x0008).data.getLsbD 2 = s.ovr ∧ (s.busRead 0x0008).data.getLsbD 3 = s.rkValid ∧
    (s.busRead 0x0008).data.getLsbD 4 = s.sboxOk ∧ (s.busRead 0x0008).data.extractLsb' 5 3 = 0 ∧
    (s.busRead 0x0008).data.extractLsb' 8 4 = s.err.code ∧ (s.busRead 0x0008).data.extractLsb' 12 20 = 0 ∧
    s.busWrite 0x0008 v =
      { s with
        done := if v.getLsbD 1 then false else s.done
        ovr := if v.getLsbD 2 then false else s.ovr }

/-- 60_exceptions.md R280: irq is DONE and IE; a completion raises it when IE = 1; a W1C of DONE, IE <- 0 or the next acceptance lowers it; it is 0 after reset and after the self-check. -/
def Obligations.InterruptIsALevel : Prop :=
  (∀ s : State, s.irq = (s.done && s.ie)) ∧
  (∀ (i : Instr) (s t : State), exec i s = .next t → t.irq = s.ie) ∧
  (∀ (s : State) (v : Word), v.getLsbD 1 = true → (s.busWrite 0x0008 v).irq = false) ∧
  (∀ (s : State) (v : Word), (s.busWrite 0x0004 v).ie = v.getLsbD 0 ∧ (s.busWrite 0x0004 v).done = s.done) ∧
  (∀ (s : State) (w : Word), s.busy = false → (s.busWrite 0x000C w).irq = false) ∧
  ∀ (s : State) (d : ResetDraw), (s.assertReset d).irq = false ∧ (s.assertReset d).selfCheck.irq = false

/-! ## Reset and the invariant -/

/-- 70_reset_and_hazards.md R300: rst_n at any time gives every register its reset value, abandons the command, and keeps BUF but for the bytes an abandoned command would write, each of which is old or new; a command that would fail, such as an OPEN with a wrong tag, leaves BUF as it was.
The draw of the bytes that have landed, and that a failing command lands none, are log entry 4. -/
def Obligations.ResetAbandonsTheCommand : Prop :=
  ∀ (s : State) (d : ResetDraw),
    s.assertReset d =
      { seq := .selftest, ie := false, done := false, ovr := false, rkValid := false, sboxOk := false, err := .none
        cmd := 0, len := 0, gfA := 0, gfB := 0, gfP := 0, ctrLo := 0, ctrHi := 0
        key := Block.zero, state := Block.zero, tag := Block.zero, rk := d.rk, buf := (s.assertReset d).buf
        rom := s.rom, bufSize := s.bufSize, inputs := s.inputs, responses := s.responses } ∧
    ((∀ w, s.seq ≠ .run w) → (s.assertReset d).buf = s.buf) ∧
    ∀ (w : Word) (t : State), s.seq = .run w → runWord w s = .next t → s.buf.wf →
      (∀ i, (s.assertReset d).buf.read i = (if i ∈ d.landed then t.buf.read i else s.buf.read i)) ∧
      (t.err ≠ .none → SameBuf s (s.assertReset d))

/-- 70_reset_and_hazards.md R301, R302, R304: the self-check's verdict, that BUSY = 1 meanwhile, and that the first step after reset reaches CleanEntry.
That a step with no input is the sequencer's turn is log entry 5, and that the self-check is one step log entry 13. -/
def Obligations.SelfCheckReachesCleanEntry : Prop :=
  (∀ s : State, s.seq = .selftest → s.busy = true) ∧
  (∀ s : State, s.seq = .selftest → s.inputs = [] →
    step s =
      .next { s with
        sboxOk := s.rom.pairOk, err := if s.rom.pairOk then s.err else .sboxInitFailure, seq := .idle }) ∧
  (∀ rom : Rom, rom.pairOk = true ↔
    (∀ x : Byte, rom.sub (rom.subInv x) = x) ∧ (∀ x : Byte, rom.subInv (rom.sub x) = x)) ∧
  ∀ (n : BufSize) (m : Memory) (k : RoundKeys) (rs : List Response),
    ∃ t, step (State.powerUp Rom.standard n m k [] rs) = .next t ∧ CleanEntry t ∧ t.buf = m

/-- The state right after reset meets the invariant of the model. -/
def Obligations.ResetMeetsTheInvariant : Prop := Inv State.reset

/-- Every step keeps the invariant: BUF canonical and inside BUF_BYTES, RK = Expand(KEY) while RK_VALID, SBOX_OK the verdict of the self-check, a running command as accepted, a failed self-check fatal. -/
def Obligations.EveryStepKeepsTheInvariant : Prop :=
  ∀ s t : State, Inv s → step s = .next t → Inv t
end

