-- ==== Sys2Proof/Laws/Lengths.lean ====
section
/-! SUPPORT. Lengths, padding, and the passage between byte strings and lists of blocks. -/

namespace Sys2Proof.Machine

theorem le_pad16 (n : Nat) : n ≤ pad16 n := by unfold pad16; omega

theorem pad16_lt (n : Nat) : pad16 n < n + 16 := by unfold pad16; omega

theorem pad16_mod (n : Nat) : pad16 n % 16 = 0 := by unfold pad16; omega

theorem pad16_of_mod {n : Nat} (h : n % 16 = 0) : pad16 n = n := by unfold pad16; omega

theorem pad16_eq (n : Nat) : pad16 n = 16 * blockCount n := by unfold blockCount pad16; omega

theorem blockCount_eq (n : Nat) : blockCount n = (n + 15) / 16 := by unfold blockCount pad16; omega

theorem BufSize.bytes_mod (n : BufSize) : n.bytes % 16 = 0 := by unfold BufSize.bytes; omega

theorem BufSize.bytes_bounds (n : BufSize) : 32 ≤ n.bytes ∧ n.bytes ≤ 61440 := by
  have := n.isLt
  unfold BufSize.bytes
  omega

/-- Every legal BUF_BYTES of 00_scope.md R10 is the size of some part. -/
theorem BufSize.bytes_surjective (b : Nat) (hm : b % 16 = 0) (h1 : 32 ≤ b) (h2 : b ≤ 61440) :
    ∃ n : BufSize, n.bytes = b :=
  ⟨⟨(b - 32) / 16, by omega⟩, by simp only [BufSize.bytes]; omega⟩

@[simp] theorem length_toBlocks (n : Nat) (m : List Byte) : (toBlocks n m).length = n := by
  induction n generalizing m with
  | zero => rfl
  | succ n ih => simp [toBlocks, ih]

@[simp] theorem length_ofBlocks (bs : List Block) : (ofBlocks bs).length = 16 * bs.length := by
  induction bs with
  | nil => rfl
  | cons b bs ih => simp only [ofBlocks, List.length_append, Vector.length_toList, ih, List.length_cons]; omega

@[simp] theorem headBlock_toList_append (b : Block) (m : List Byte) : headBlock (b.toList ++ m) = b := by
  ext i hi
  simp [headBlock, List.getD, List.getElem?_append_left]

theorem headBlock_toList (b : Block) : headBlock b.toList = b := by
  simpa using headBlock_toList_append b []

@[simp] theorem drop_toList_append (b : Block) (m : List Byte) : (b.toList ++ m).drop 16 = m :=
  List.drop_left' (by simp)

/-- Cutting the string of some blocks gives the blocks. -/
theorem toBlocks_ofBlocks (bs : List Block) (m : List Byte) : toBlocks bs.length (ofBlocks bs ++ m) = bs := by
  induction bs with
  | nil => rfl
  | cons b bs ih => simp [toBlocks, ofBlocks, ih]

/-- A string of exactly n blocks is the string of its blocks. -/
theorem ofBlocks_toBlocks (n : Nat) (m : List Byte) (h : m.length = 16 * n) : ofBlocks (toBlocks n m) = m := by
  induction n generalizing m with
  | zero => exact (List.length_eq_zero_iff.1 (by simpa using h)).symm
  | succ n ih =>
    have hhead : (headBlock m).toList = m.take 16 := by
      apply List.ext_getElem
      · simp; omega
      · intro i h1 h2
        have : i < m.length := by simp at h1; omega
        simp [headBlock, List.getD, List.getElem?_eq_getElem this]
    rw [toBlocks, ofBlocks, hhead, ih _ (by simp; omega), List.take_append_drop]

/-- The first n blocks do not depend on what follows them. -/
theorem toBlocks_append (n k : Nat) (m m' : List Byte) (h : m.length = 16 * n) :
    toBlocks (n + k) (m ++ m') = toBlocks n m ++ toBlocks k m' := by
  have hm := ofBlocks_toBlocks n m h
  rw [← hm]
  generalize toBlocks n m = bs at *
  have hbs : bs.length = n := by have := congrArg List.length hm; simp at this; omega
  clear hm h
  subst hbs
  induction bs with
  | nil => simp [toBlocks, ofBlocks]
  | cons b bs ih =>
    have hk : (b :: bs).length + k = (bs.length + k) + 1 := by simp; omega
    have := toBlocks_ofBlocks bs []
    simp only [List.append_nil] at this
    rw [hk]
    simp only [List.length_cons, toBlocks, ofBlocks, List.append_assoc, headBlock_toList_append, drop_toList_append, ih,
      List.cons_append]

/-- Byte 16j + i of a byte string is byte i of its block j. -/
theorem getElem_ofBlocks (bs : List Block) (j : Nat) (i : Fin 16) (hj : j < bs.length)
    (h : 16 * j + i.val < (ofBlocks bs).length) : (ofBlocks bs)[16 * j + i.val] = (bs[j])[i] := by
  induction bs generalizing j with
  | nil => simp at hj
  | cons b bs ih =>
    cases j with
    | zero => simp [ofBlocks, List.getElem_append_left]
    | succ j =>
      have hlt : j < bs.length := by simpa using hj
      have hb : 16 * j + i.val < (ofBlocks bs).length := by simp; omega
      have : 16 * (j + 1) + i.val = b.toList.length + (16 * j + i.val) := by simp; omega
      simp only [ofBlocks, this, List.getElem_append_right (Nat.le_add_right _ _), Nat.add_sub_cancel_left,
        List.getElem_cons_succ]
      exact ih j hlt hb

/-- Byte i of block j of a byte string is its byte 16j + i, or 0 past its end. -/
theorem getElem_toBlocks (n : Nat) (m : List Byte) (j : Nat) (i : Fin 16) (hj : j < (toBlocks n m).length) :
    ((toBlocks n m)[j])[i] = m.getD (16 * j + i.val) 0 := by
  induction n generalizing m j with
  | zero => simp at hj
  | succ n ih =>
    cases j with
    | zero => simp [toBlocks, headBlock]
    | succ j =>
      simp only [toBlocks, List.getElem_cons_succ]
      rw [ih]
      simp only [List.getD, List.getElem?_drop]
      congr 2
      omega

@[simp] theorem length_padMessage (m : List Byte) : (padMessage m).length = pad16 m.length := by
  have := le_pad16 m.length
  simp [padMessage]
  omega

theorem padMessage_of_mod {m : List Byte} (h : m.length % 16 = 0) : padMessage m = m := by
  simp [padMessage, pad16_of_mod h]

@[simp] theorem length_ctrBlocks (rom : Rom) (rk : RoundKeys) (c : Nat) (bs : List Block) :
    (ctrBlocks rom rk c bs).length = bs.length := by
  induction bs generalizing c with
  | nil => rfl
  | cons b bs ih => simp [ctrBlocks, ih]

@[simp] theorem length_ctrApply (rom : Rom) (m : List Byte) (rk : RoundKeys) (c : Nat) :
    (ctrApply rom m rk c).length = pad16 m.length := by
  simp [ctrApply, pad16_eq]

/-- Block j of the CTR stream. -/
theorem getElem_ctrBlocks (rom : Rom) (rk : RoundKeys) (c : Nat) (bs : List Block) (j : Nat)
    (hj : j < (ctrBlocks rom rk c bs).length) :
    (ctrBlocks rom rk c bs)[j] =
      xor16 (bs[j]'(by simpa using hj)) (encrypt rom (counterBlock (c + j)) rk) := by
  induction bs generalizing c j with
  | nil => simp at hj
  | cons b bs ih =>
    cases j with
    | zero => rfl
    | succ j =>
      simp only [ctrBlocks, List.getElem_cons_succ]
      rw [ih]
      congr 3
      omega

end Sys2Proof.Machine
end

