-- ==== Sys2Proof/Laws/Memory.lean ====
section
/-! SUPPORT. BUF as a memory: a read after a write, what a write leaves alone, and that every operation keeps the canonical form. -/

namespace Sys2Proof.Machine

@[simp] theorem Memory.read_nil (i : Nat) : Memory.read [] i = unwrittenByte := rfl

/-- Every listed position lies above `lo`. -/
def Memory.above (m : Memory) (lo : Nat) : Prop := ∀ c ∈ m, lo < c.1

theorem Memory.wf_cons {k : Nat} {v : Byte} {m : Memory} :
    Memory.wf ((k, v) :: m) ↔ Memory.above m k ∧ v ≠ unwrittenByte ∧ Memory.wf m := by
  simp only [Memory.wf, Memory.above, List.pairwise_cons, List.mem_cons, forall_eq_or_imp]
  tauto

/-- A position not above every listed one reads as unwritten when it is listed nowhere. -/
theorem Memory.read_of_not_mem {m : Memory} {i : Nat} (h : ∀ c ∈ m, c.1 ≠ i) : m.read i = unwrittenByte := by
  induction m with
  | nil => rfl
  | cons c m ih =>
    obtain ⟨k, v⟩ := c
    simp only [List.mem_cons, forall_eq_or_imp] at h
    simp [Memory.read, h.1, ih h.2]

theorem Memory.read_of_above {m : Memory} {lo i : Nat} (h : m.above lo) (hi : i ≤ lo) : m.read i = unwrittenByte :=
  Memory.read_of_not_mem fun c hc => by have := h c hc; omega

/-- A write leaves every other byte alone, in any list. -/
theorem Memory.read_write_ne {m : Memory} {i j : Nat} {b : Byte} (h : j ≠ i) : (m.write i b).read j = m.read j := by
  induction m with
  | nil => unfold Memory.write; split <;> simp [Memory.read, Ne.symm h]
  | cons c m ih =>
    obtain ⟨k, v⟩ := c
    unfold Memory.write
    split
    · split <;> simp [Memory.read, Ne.symm h]
    · split
      · rename_i hk
        subst hk
        split <;> simp [Memory.read, Ne.symm h]
      · simp [Memory.read, ih]

/-- A read after a write to the same byte gives the value written. -/
theorem Memory.read_write_self {m : Memory} {i : Nat} {b : Byte} (hm : m.wf) : (m.write i b).read i = b := by
  induction m with
  | nil => unfold Memory.write; split <;> simp_all [Memory.read]
  | cons c m ih =>
    obtain ⟨k, v⟩ := c
    obtain ⟨ha, -, hw⟩ := Memory.wf_cons.1 hm
    unfold Memory.write
    split
    · rename_i hik
      have hread : Memory.read ((k, v) :: m) i = unwrittenByte := by
        simp only [Memory.read]
        rw [if_neg (by omega)]
        exact Memory.read_of_above ha (by omega)
      split
      · simp_all
      · simp [Memory.read]
    · split
      · rename_i hk
        subst hk
        have hread := Memory.read_of_above ha (Nat.le_refl i)
        split
        · simp_all
        · simp [Memory.read]
      · rename_i h1 h2
        have hne : k ≠ i := fun h => h2 h.symm
        simp [Memory.read, hne, ih hw]

/-- A write adds no position but the one written. -/
theorem Memory.mem_write {m : Memory} {i : Nat} {b : Byte} {c : Host.Cell} (h : c ∈ m.write i b) :
    c ∈ m ∨ (c = (i, b) ∧ b ≠ unwrittenByte) := by
  induction m with
  | nil => unfold Memory.write at h; split at h <;> simp_all
  | cons d m ih =>
    obtain ⟨k, v⟩ := d
    unfold Memory.write at h
    split at h
    · split at h <;> simp_all
      tauto
    · split at h
      · split at h <;> simp_all
        tauto
      · simp only [List.mem_cons] at h ⊢
        rcases h with h | h
        · exact .inl (.inl h)
        · rcases ih h with h | h <;> tauto

/-- A write keeps the canonical form. -/
theorem Memory.wf_write {m : Memory} {i : Nat} {b : Byte} (hm : m.wf) : (m.write i b).wf := by
  induction m with
  | nil => unfold Memory.write; split <;> simp_all [Memory.wf]
  | cons c m ih =>
    obtain ⟨k, v⟩ := c
    obtain ⟨ha, hv, hw⟩ := Memory.wf_cons.1 hm
    unfold Memory.write
    split
    · rename_i hik
      split
      · exact hm
      · refine Memory.wf_cons.2 ⟨?_, ‹_›, hm⟩
        intro c hc
        rcases List.mem_cons.1 hc with rfl | hc
        · exact hik
        · have := ha c hc; omega
    · split
      · rename_i hk
        subst hk
        split
        · exact hw
        · exact Memory.wf_cons.2 ⟨ha, ‹_›, hw⟩
      · refine Memory.wf_cons.2 ⟨?_, hv, ih hw⟩
        intro c hc
        rcases Memory.mem_write hc with hc | ⟨rfl, -⟩
        · exact ha c hc
        · show k < i
          omega

/-- A write of several bytes keeps the canonical form. -/
theorem Memory.wf_writeBytes {m : Memory} {i : Nat} {bs : List Byte} (hm : m.wf) : (m.writeBytes i bs).wf := by
  induction bs generalizing m i with
  | nil => exact hm
  | cons b bs ih => exact ih (Memory.wf_write hm)

/-- A write of several bytes leaves the bytes outside them alone, in any list. -/
theorem Memory.read_writeBytes_outside {m : Memory} {i j : Nat} {bs : List Byte}
    (h : j < i ∨ i + bs.length ≤ j) : (m.writeBytes i bs).read j = m.read j := by
  induction bs generalizing m i with
  | nil => rfl
  | cons b bs ih =>
    simp only [List.length_cons] at h
    rw [Memory.writeBytes, ih (by omega), Memory.read_write_ne (by omega)]

/-- A read inside the bytes just written gives the byte written there. -/
theorem Memory.read_writeBytes_inside {m : Memory} {i j : Nat} {bs : List Byte} (hm : m.wf) (hj : j < bs.length) :
    (m.writeBytes i bs).read (i + j) = bs[j] := by
  induction bs generalizing m i j with
  | nil => simp at hj
  | cons b bs ih =>
    rw [Memory.writeBytes]
    cases j with
    | zero => rw [Memory.read_writeBytes_outside (by omega), Nat.add_zero, Memory.read_write_self hm]; rfl
    | succ j =>
      have := ih (m := m.write i b) (i := i + 1) (j := j) (Memory.wf_write hm) (by simpa using hj)
      simpa [Nat.add_assoc, Nat.add_comm 1 j] using this

/-- The positions a memory lists after a write of several bytes below `hi` stay below `hi`. -/
theorem Memory.inside_writeBytes {m : Memory} {i hi : Nat} {bs : List Byte} (hm : ∀ c ∈ m, c.1 < hi)
    (hb : i + bs.length ≤ hi) : ∀ c ∈ m.writeBytes i bs, c.1 < hi := by
  induction bs generalizing m i with
  | nil => exact hm
  | cons b bs ih =>
    simp only [List.length_cons] at hb
    refine ih (fun c hc => ?_) (by omega)
    rcases Memory.mem_write hc with hc | ⟨rfl, -⟩
    · exact hm c hc
    · show i < hi
      omega

@[simp] theorem Memory.length_readBytes (m : Memory) (i n : Nat) : (m.readBytes i n).length = n := by
  simp [Memory.readBytes]

@[simp] theorem Memory.getElem_readBytes (m : Memory) (i n j : Nat) (h : j < (m.readBytes i n).length) :
    (m.readBytes i n)[j] = m.read (i + j) := by
  simp [Memory.readBytes]

@[simp] theorem State.length_message (s : State) : s.message.length = s.length := by simp [State.message]

end Sys2Proof.Machine
end

