-- ==== Sys2Proof/Laws/Messages.lean ====
section
/-! SUPPORT. Messages byte by byte: what a command reads from BUF, what the CTR stream makes of it, and what BUF holds after it is written back. -/

namespace Sys2Proof.Machine

/-- A padded message, byte by byte, is the message with zeros after it. -/
theorem getD_padMessage (m : List Byte) (n : Nat) : (padMessage m).getD n 0 = m.getD n 0 := by
  unfold padMessage
  simp only [List.getD, List.getElem?_append]
  split
  · rfl
  · rename_i h
    rw [List.getElem?_eq_none (l := m) (by omega), List.getElem?_replicate]
    split <;> rfl

/-- Byte 16j + i of the CTR stream's output (spec/44_modes.md R202). -/
theorem getD_ctrApply (rom : Rom) (m : List Byte) (rk : RoundKeys) (c j : Nat) (i : Fin 16)
    (hj : j < blockCount m.length) :
    (ctrApply rom m rk c).getD (16 * j + i.val) 0 =
      m.getD (16 * j + i.val) 0 ^^^ (encrypt rom (counterBlock (c + j)) rk)[i] := by
  have hi := i.isLt
  have hb : j < (ctrBlocks rom rk c (toBlocks (blockCount m.length) (padMessage m))).length := by simpa using hj
  have hlen : 16 * j + i.val <
      (ofBlocks (ctrBlocks rom rk c (toBlocks (blockCount m.length) (padMessage m)))).length := by simp; omega
  have hbyte := getElem_ofBlocks _ j i hb hlen
  have hmsg := getElem_toBlocks (blockCount m.length) (padMessage m) j i (by simpa using hj)
  rw [getElem_ctrBlocks] at hbyte
  rw [getD_padMessage] at hmsg
  unfold ctrApply
  rw [List.getD_eq_getElem _ _ hlen, hbyte, ← hmsg]
  simp [xor16]

theorem getD_readBytes (m : Memory) (i n j : Nat) :
    (m.readBytes i n).getD j 0 = if j < n then m.read (i + j) else 0 := by
  split
  · rename_i h
    rw [List.getD_eq_getElem _ _ (by simpa using h)]
    simp
  · rename_i h
    rw [List.getD_eq_default]
    simpa using h

/-- What a command sees at position j of its message. -/
theorem State.getD_message (s : State) (j : Nat) :
    s.message.getD j 0 = if j < s.length then s.buf.read j else 0 := by
  rw [State.message, getD_readBytes, Nat.zero_add]

/-- BUF after a string is written at its start. -/
theorem State.read_writeMessage {s : State} (h : s.buf.wf) (bs : List Byte) (j : Nat) :
    (s.writeMessage bs).buf.read j = if j < bs.length then bs.getD j 0 else s.buf.read j := by
  unfold State.writeMessage
  split
  · rename_i hj
    have := Memory.read_writeBytes_inside (i := 0) h hj
    rw [Nat.zero_add] at this
    rw [this, List.getD_eq_getElem _ _ hj]
  · exact Memory.read_writeBytes_outside (by omega)

end Sys2Proof.Machine
end

