-- ==== Sys2Proof/Laws/Auth.lean ====
section
/-! SUPPORT. CBC-MAC over a longer message, the tag comparison, and Open as a choice on the equality of two tags. -/

namespace Sys2Proof.Machine

/-- The MAC of a longer message goes on from the MAC of its first blocks (spec/44_modes.md R210). -/
theorem cbcMac_append (rom : Rom) (rk : RoundKeys) (m m' : List Byte) (h : m.length % 16 = 0) :
    cbcMac rom (m ++ m') rk =
      (toBlocks (m'.length / 16) m').foldl (fun a b => encrypt rom (xor16 b a) rk) (cbcMac rom m rk) := by
  have e : (m ++ m').length / 16 = m.length / 16 + m'.length / 16 := by
    rw [List.length_append]
    omega
  unfold cbcMac
  rw [e, toBlocks_append _ _ _ _ (by omega), List.foldl_append]

/-- The comparator's verdict is the equality of the tags (spec/45_authenticated.md R236). -/
theorem tagEqual_iff (a b : Block) : tagEqual a b = true ↔ a = b := by
  constructor
  · intro h
    simp only [tagEqual, List.finRange, List.ofFn_succ, List.ofFn_zero, List.foldl] at h
    simp at h
    apply Vector.ext
    intro i hi
    interval_cases i <;> simp_all
  · rintro rfl
    simp [tagEqual, List.finRange]

/-- Seal appends 16 bytes to the ciphertext (spec/45_authenticated.md R232). -/
theorem length_sealString (rom : Rom) (pt : List Byte) (key : Block) (c : Nat) :
    (sealString rom pt key c).length = pad16 pt.length + 16 := by
  simp only [sealString, sealParts, List.length_append, Vector.length_toList, length_ctrApply]

/-- Open of a string with m bytes before its tag (spec/45_authenticated.md R233). -/
theorem openString_eq (rom : Rom) (str : List Byte) (key : Block) (c m : Nat) (hm : str.length = m + 16) :
    openString rom str key c =
      if cbcMac rom (str.take m) (expand rom key) = headBlock (str.drop m) then
        some (ctrApply rom (str.take m) (expand rom key) c)
      else none := by
  unfold openString
  simp only [hm, Nat.add_sub_cancel]
  by_cases h : cbcMac rom (str.take m) (expand rom key) = headBlock (str.drop m)
  · rw [if_pos h, if_pos ((tagEqual_iff _ _).2 h)]
  · rw [if_neg h, if_neg fun hh => h ((tagEqual_iff _ _).1 hh)]

end Sys2Proof.Machine
end

