-- ==== Sys2Proof/Laws/State.lean ====
section
/-! SUPPORT. One lemma per field per update of State, so that no proof unfolds a record update. -/

namespace Sys2Proof.Machine

section accept
variable (s : State) (w : Word)

@[simp] theorem State.accept_seq : (s.accept w).seq = .run w := rfl
@[simp] theorem State.accept_ie : (s.accept w).ie = s.ie := rfl
@[simp] theorem State.accept_done : (s.accept w).done = false := rfl
@[simp] theorem State.accept_ovr : (s.accept w).ovr = s.ovr := rfl
@[simp] theorem State.accept_rkValid : (s.accept w).rkValid = s.rkValid := rfl
@[simp] theorem State.accept_sboxOk : (s.accept w).sboxOk = s.sboxOk := rfl
@[simp] theorem State.accept_err : (s.accept w).err = .none := rfl
@[simp] theorem State.accept_cmd : (s.accept w).cmd = w := rfl
@[simp] theorem State.accept_len : (s.accept w).len = s.len := rfl
@[simp] theorem State.accept_gfA : (s.accept w).gfA = s.gfA := rfl
@[simp] theorem State.accept_gfB : (s.accept w).gfB = s.gfB := rfl
@[simp] theorem State.accept_gfP : (s.accept w).gfP = s.gfP := rfl
@[simp] theorem State.accept_ctrLo : (s.accept w).ctrLo = s.ctrLo := rfl
@[simp] theorem State.accept_ctrHi : (s.accept w).ctrHi = s.ctrHi := rfl
@[simp] theorem State.accept_key : (s.accept w).key = s.key := rfl
@[simp] theorem State.accept_state : (s.accept w).state = s.state := rfl
@[simp] theorem State.accept_tag : (s.accept w).tag = s.tag := rfl
@[simp] theorem State.accept_rk : (s.accept w).rk = s.rk := rfl
@[simp] theorem State.accept_buf : (s.accept w).buf = s.buf := rfl
@[simp] theorem State.accept_rom : (s.accept w).rom = s.rom := rfl
@[simp] theorem State.accept_bufSize : (s.accept w).bufSize = s.bufSize := rfl
@[simp] theorem State.accept_inputs : (s.accept w).inputs = s.inputs := rfl
@[simp] theorem State.accept_responses : (s.accept w).responses = s.responses := rfl

end accept

section complete
variable (s : State) (e : ErrCode)

@[simp] theorem State.complete_seq : (s.complete e).seq = .idle := rfl
@[simp] theorem State.complete_ie : (s.complete e).ie = s.ie := rfl
@[simp] theorem State.complete_done : (s.complete e).done = true := rfl
@[simp] theorem State.complete_ovr : (s.complete e).ovr = s.ovr := rfl
@[simp] theorem State.complete_rkValid : (s.complete e).rkValid = s.rkValid := rfl
@[simp] theorem State.complete_sboxOk : (s.complete e).sboxOk = s.sboxOk := rfl
@[simp] theorem State.complete_err : (s.complete e).err = e := rfl
@[simp] theorem State.complete_cmd : (s.complete e).cmd = s.cmd := rfl
@[simp] theorem State.complete_len : (s.complete e).len = s.len := rfl
@[simp] theorem State.complete_gfA : (s.complete e).gfA = s.gfA := rfl
@[simp] theorem State.complete_gfB : (s.complete e).gfB = s.gfB := rfl
@[simp] theorem State.complete_gfP : (s.complete e).gfP = s.gfP := rfl
@[simp] theorem State.complete_ctrLo : (s.complete e).ctrLo = s.ctrLo := rfl
@[simp] theorem State.complete_ctrHi : (s.complete e).ctrHi = s.ctrHi := rfl
@[simp] theorem State.complete_key : (s.complete e).key = s.key := rfl
@[simp] theorem State.complete_state : (s.complete e).state = s.state := rfl
@[simp] theorem State.complete_tag : (s.complete e).tag = s.tag := rfl
@[simp] theorem State.complete_rk : (s.complete e).rk = s.rk := rfl
@[simp] theorem State.complete_buf : (s.complete e).buf = s.buf := rfl
@[simp] theorem State.complete_rom : (s.complete e).rom = s.rom := rfl
@[simp] theorem State.complete_bufSize : (s.complete e).bufSize = s.bufSize := rfl
@[simp] theorem State.complete_inputs : (s.complete e).inputs = s.inputs := rfl
@[simp] theorem State.complete_responses : (s.complete e).responses = s.responses := rfl

end complete

section writeGfP
variable (s : State) (p : Byte)

@[simp] theorem State.writeGfP_seq : (s.writeGfP p).seq = s.seq := rfl
@[simp] theorem State.writeGfP_ie : (s.writeGfP p).ie = s.ie := rfl
@[simp] theorem State.writeGfP_done : (s.writeGfP p).done = s.done := rfl
@[simp] theorem State.writeGfP_ovr : (s.writeGfP p).ovr = s.ovr := rfl
@[simp] theorem State.writeGfP_rkValid : (s.writeGfP p).rkValid = s.rkValid := rfl
@[simp] theorem State.writeGfP_sboxOk : (s.writeGfP p).sboxOk = s.sboxOk := rfl
@[simp] theorem State.writeGfP_err : (s.writeGfP p).err = s.err := rfl
@[simp] theorem State.writeGfP_cmd : (s.writeGfP p).cmd = s.cmd := rfl
@[simp] theorem State.writeGfP_len : (s.writeGfP p).len = s.len := rfl
@[simp] theorem State.writeGfP_gfA : (s.writeGfP p).gfA = s.gfA := rfl
@[simp] theorem State.writeGfP_gfB : (s.writeGfP p).gfB = s.gfB := rfl
@[simp] theorem State.writeGfP_gfP : (s.writeGfP p).gfP = p := rfl
@[simp] theorem State.writeGfP_ctrLo : (s.writeGfP p).ctrLo = s.ctrLo := rfl
@[simp] theorem State.writeGfP_ctrHi : (s.writeGfP p).ctrHi = s.ctrHi := rfl
@[simp] theorem State.writeGfP_key : (s.writeGfP p).key = s.key := rfl
@[simp] theorem State.writeGfP_state : (s.writeGfP p).state = s.state := rfl
@[simp] theorem State.writeGfP_tag : (s.writeGfP p).tag = s.tag := rfl
@[simp] theorem State.writeGfP_rk : (s.writeGfP p).rk = s.rk := rfl
@[simp] theorem State.writeGfP_buf : (s.writeGfP p).buf = s.buf := rfl
@[simp] theorem State.writeGfP_rom : (s.writeGfP p).rom = s.rom := rfl
@[simp] theorem State.writeGfP_bufSize : (s.writeGfP p).bufSize = s.bufSize := rfl
@[simp] theorem State.writeGfP_inputs : (s.writeGfP p).inputs = s.inputs := rfl
@[simp] theorem State.writeGfP_responses : (s.writeGfP p).responses = s.responses := rfl

end writeGfP

section writeState
variable (s : State) (b : Block)

@[simp] theorem State.writeState_seq : (s.writeState b).seq = s.seq := rfl
@[simp] theorem State.writeState_ie : (s.writeState b).ie = s.ie := rfl
@[simp] theorem State.writeState_done : (s.writeState b).done = s.done := rfl
@[simp] theorem State.writeState_ovr : (s.writeState b).ovr = s.ovr := rfl
@[simp] theorem State.writeState_rkValid : (s.writeState b).rkValid = s.rkValid := rfl
@[simp] theorem State.writeState_sboxOk : (s.writeState b).sboxOk = s.sboxOk := rfl
@[simp] theorem State.writeState_err : (s.writeState b).err = s.err := rfl
@[simp] theorem State.writeState_cmd : (s.writeState b).cmd = s.cmd := rfl
@[simp] theorem State.writeState_len : (s.writeState b).len = s.len := rfl
@[simp] theorem State.writeState_gfA : (s.writeState b).gfA = s.gfA := rfl
@[simp] theorem State.writeState_gfB : (s.writeState b).gfB = s.gfB := rfl
@[simp] theorem State.writeState_gfP : (s.writeState b).gfP = s.gfP := rfl
@[simp] theorem State.writeState_ctrLo : (s.writeState b).ctrLo = s.ctrLo := rfl
@[simp] theorem State.writeState_ctrHi : (s.writeState b).ctrHi = s.ctrHi := rfl
@[simp] theorem State.writeState_key : (s.writeState b).key = s.key := rfl
@[simp] theorem State.writeState_state : (s.writeState b).state = b := rfl
@[simp] theorem State.writeState_tag : (s.writeState b).tag = s.tag := rfl
@[simp] theorem State.writeState_rk : (s.writeState b).rk = s.rk := rfl
@[simp] theorem State.writeState_buf : (s.writeState b).buf = s.buf := rfl
@[simp] theorem State.writeState_rom : (s.writeState b).rom = s.rom := rfl
@[simp] theorem State.writeState_bufSize : (s.writeState b).bufSize = s.bufSize := rfl
@[simp] theorem State.writeState_inputs : (s.writeState b).inputs = s.inputs := rfl
@[simp] theorem State.writeState_responses : (s.writeState b).responses = s.responses := rfl

end writeState

section writeTag
variable (s : State) (b : Block)

@[simp] theorem State.writeTag_seq : (s.writeTag b).seq = s.seq := rfl
@[simp] theorem State.writeTag_ie : (s.writeTag b).ie = s.ie := rfl
@[simp] theorem State.writeTag_done : (s.writeTag b).done = s.done := rfl
@[simp] theorem State.writeTag_ovr : (s.writeTag b).ovr = s.ovr := rfl
@[simp] theorem State.writeTag_rkValid : (s.writeTag b).rkValid = s.rkValid := rfl
@[simp] theorem State.writeTag_sboxOk : (s.writeTag b).sboxOk = s.sboxOk := rfl
@[simp] theorem State.writeTag_err : (s.writeTag b).err = s.err := rfl
@[simp] theorem State.writeTag_cmd : (s.writeTag b).cmd = s.cmd := rfl
@[simp] theorem State.writeTag_len : (s.writeTag b).len = s.len := rfl
@[simp] theorem State.writeTag_gfA : (s.writeTag b).gfA = s.gfA := rfl
@[simp] theorem State.writeTag_gfB : (s.writeTag b).gfB = s.gfB := rfl
@[simp] theorem State.writeTag_gfP : (s.writeTag b).gfP = s.gfP := rfl
@[simp] theorem State.writeTag_ctrLo : (s.writeTag b).ctrLo = s.ctrLo := rfl
@[simp] theorem State.writeTag_ctrHi : (s.writeTag b).ctrHi = s.ctrHi := rfl
@[simp] theorem State.writeTag_key : (s.writeTag b).key = s.key := rfl
@[simp] theorem State.writeTag_state : (s.writeTag b).state = s.state := rfl
@[simp] theorem State.writeTag_tag : (s.writeTag b).tag = b := rfl
@[simp] theorem State.writeTag_rk : (s.writeTag b).rk = s.rk := rfl
@[simp] theorem State.writeTag_buf : (s.writeTag b).buf = s.buf := rfl
@[simp] theorem State.writeTag_rom : (s.writeTag b).rom = s.rom := rfl
@[simp] theorem State.writeTag_bufSize : (s.writeTag b).bufSize = s.bufSize := rfl
@[simp] theorem State.writeTag_inputs : (s.writeTag b).inputs = s.inputs := rfl
@[simp] theorem State.writeTag_responses : (s.writeTag b).responses = s.responses := rfl

end writeTag

section writeLen
variable (s : State) (n : Nat)

@[simp] theorem State.writeLen_seq : (s.writeLen n).seq = s.seq := rfl
@[simp] theorem State.writeLen_ie : (s.writeLen n).ie = s.ie := rfl
@[simp] theorem State.writeLen_done : (s.writeLen n).done = s.done := rfl
@[simp] theorem State.writeLen_ovr : (s.writeLen n).ovr = s.ovr := rfl
@[simp] theorem State.writeLen_rkValid : (s.writeLen n).rkValid = s.rkValid := rfl
@[simp] theorem State.writeLen_sboxOk : (s.writeLen n).sboxOk = s.sboxOk := rfl
@[simp] theorem State.writeLen_err : (s.writeLen n).err = s.err := rfl
@[simp] theorem State.writeLen_cmd : (s.writeLen n).cmd = s.cmd := rfl
@[simp] theorem State.writeLen_len : (s.writeLen n).len = BitVec.ofNat 32 n := rfl
@[simp] theorem State.writeLen_gfA : (s.writeLen n).gfA = s.gfA := rfl
@[simp] theorem State.writeLen_gfB : (s.writeLen n).gfB = s.gfB := rfl
@[simp] theorem State.writeLen_gfP : (s.writeLen n).gfP = s.gfP := rfl
@[simp] theorem State.writeLen_ctrLo : (s.writeLen n).ctrLo = s.ctrLo := rfl
@[simp] theorem State.writeLen_ctrHi : (s.writeLen n).ctrHi = s.ctrHi := rfl
@[simp] theorem State.writeLen_key : (s.writeLen n).key = s.key := rfl
@[simp] theorem State.writeLen_state : (s.writeLen n).state = s.state := rfl
@[simp] theorem State.writeLen_tag : (s.writeLen n).tag = s.tag := rfl
@[simp] theorem State.writeLen_rk : (s.writeLen n).rk = s.rk := rfl
@[simp] theorem State.writeLen_buf : (s.writeLen n).buf = s.buf := rfl
@[simp] theorem State.writeLen_rom : (s.writeLen n).rom = s.rom := rfl
@[simp] theorem State.writeLen_bufSize : (s.writeLen n).bufSize = s.bufSize := rfl
@[simp] theorem State.writeLen_inputs : (s.writeLen n).inputs = s.inputs := rfl
@[simp] theorem State.writeLen_responses : (s.writeLen n).responses = s.responses := rfl

end writeLen

section writeMessage
variable (s : State) (bs : List Byte)

@[simp] theorem State.writeMessage_seq : (s.writeMessage bs).seq = s.seq := rfl
@[simp] theorem State.writeMessage_ie : (s.writeMessage bs).ie = s.ie := rfl
@[simp] theorem State.writeMessage_done : (s.writeMessage bs).done = s.done := rfl
@[simp] theorem State.writeMessage_ovr : (s.writeMessage bs).ovr = s.ovr := rfl
@[simp] theorem State.writeMessage_rkValid : (s.writeMessage bs).rkValid = s.rkValid := rfl
@[simp] theorem State.writeMessage_sboxOk : (s.writeMessage bs).sboxOk = s.sboxOk := rfl
@[simp] theorem State.writeMessage_err : (s.writeMessage bs).err = s.err := rfl
@[simp] theorem State.writeMessage_cmd : (s.writeMessage bs).cmd = s.cmd := rfl
@[simp] theorem State.writeMessage_len : (s.writeMessage bs).len = s.len := rfl
@[simp] theorem State.writeMessage_gfA : (s.writeMessage bs).gfA = s.gfA := rfl
@[simp] theorem State.writeMessage_gfB : (s.writeMessage bs).gfB = s.gfB := rfl
@[simp] theorem State.writeMessage_gfP : (s.writeMessage bs).gfP = s.gfP := rfl
@[simp] theorem State.writeMessage_ctrLo : (s.writeMessage bs).ctrLo = s.ctrLo := rfl
@[simp] theorem State.writeMessage_ctrHi : (s.writeMessage bs).ctrHi = s.ctrHi := rfl
@[simp] theorem State.writeMessage_key : (s.writeMessage bs).key = s.key := rfl
@[simp] theorem State.writeMessage_state : (s.writeMessage bs).state = s.state := rfl
@[simp] theorem State.writeMessage_tag : (s.writeMessage bs).tag = s.tag := rfl
@[simp] theorem State.writeMessage_rk : (s.writeMessage bs).rk = s.rk := rfl
@[simp] theorem State.writeMessage_buf : (s.writeMessage bs).buf = s.buf.writeBytes 0 bs := rfl
@[simp] theorem State.writeMessage_rom : (s.writeMessage bs).rom = s.rom := rfl
@[simp] theorem State.writeMessage_bufSize : (s.writeMessage bs).bufSize = s.bufSize := rfl
@[simp] theorem State.writeMessage_inputs : (s.writeMessage bs).inputs = s.inputs := rfl
@[simp] theorem State.writeMessage_responses : (s.writeMessage bs).responses = s.responses := rfl

end writeMessage

section writeRoundKeys
variable (s : State) (k : RoundKeys)

@[simp] theorem State.writeRoundKeys_seq : (s.writeRoundKeys k).seq = s.seq := rfl
@[simp] theorem State.writeRoundKeys_ie : (s.writeRoundKeys k).ie = s.ie := rfl
@[simp] theorem State.writeRoundKeys_done : (s.writeRoundKeys k).done = s.done := rfl
@[simp] theorem State.writeRoundKeys_ovr : (s.writeRoundKeys k).ovr = s.ovr := rfl
@[simp] theorem State.writeRoundKeys_rkValid : (s.writeRoundKeys k).rkValid = true := rfl
@[simp] theorem State.writeRoundKeys_sboxOk : (s.writeRoundKeys k).sboxOk = s.sboxOk := rfl
@[simp] theorem State.writeRoundKeys_err : (s.writeRoundKeys k).err = s.err := rfl
@[simp] theorem State.writeRoundKeys_cmd : (s.writeRoundKeys k).cmd = s.cmd := rfl
@[simp] theorem State.writeRoundKeys_len : (s.writeRoundKeys k).len = s.len := rfl
@[simp] theorem State.writeRoundKeys_gfA : (s.writeRoundKeys k).gfA = s.gfA := rfl
@[simp] theorem State.writeRoundKeys_gfB : (s.writeRoundKeys k).gfB = s.gfB := rfl
@[simp] theorem State.writeRoundKeys_gfP : (s.writeRoundKeys k).gfP = s.gfP := rfl
@[simp] theorem State.writeRoundKeys_ctrLo : (s.writeRoundKeys k).ctrLo = s.ctrLo := rfl
@[simp] theorem State.writeRoundKeys_ctrHi : (s.writeRoundKeys k).ctrHi = s.ctrHi := rfl
@[simp] theorem State.writeRoundKeys_key : (s.writeRoundKeys k).key = s.key := rfl
@[simp] theorem State.writeRoundKeys_state : (s.writeRoundKeys k).state = s.state := rfl
@[simp] theorem State.writeRoundKeys_tag : (s.writeRoundKeys k).tag = s.tag := rfl
@[simp] theorem State.writeRoundKeys_rk : (s.writeRoundKeys k).rk = k := rfl
@[simp] theorem State.writeRoundKeys_buf : (s.writeRoundKeys k).buf = s.buf := rfl
@[simp] theorem State.writeRoundKeys_rom : (s.writeRoundKeys k).rom = s.rom := rfl
@[simp] theorem State.writeRoundKeys_bufSize : (s.writeRoundKeys k).bufSize = s.bufSize := rfl
@[simp] theorem State.writeRoundKeys_inputs : (s.writeRoundKeys k).inputs = s.inputs := rfl
@[simp] theorem State.writeRoundKeys_responses : (s.writeRoundKeys k).responses = s.responses := rfl

end writeRoundKeys

section deriveRoundKeys
variable (s : State)

@[simp] theorem State.deriveRoundKeys_seq : s.deriveRoundKeys.seq = s.seq := rfl
@[simp] theorem State.deriveRoundKeys_ie : s.deriveRoundKeys.ie = s.ie := rfl
@[simp] theorem State.deriveRoundKeys_done : s.deriveRoundKeys.done = s.done := rfl
@[simp] theorem State.deriveRoundKeys_ovr : s.deriveRoundKeys.ovr = s.ovr := rfl
@[simp] theorem State.deriveRoundKeys_rkValid : s.deriveRoundKeys.rkValid = true := rfl
@[simp] theorem State.deriveRoundKeys_sboxOk : s.deriveRoundKeys.sboxOk = s.sboxOk := rfl
@[simp] theorem State.deriveRoundKeys_err : s.deriveRoundKeys.err = s.err := rfl
@[simp] theorem State.deriveRoundKeys_cmd : s.deriveRoundKeys.cmd = s.cmd := rfl
@[simp] theorem State.deriveRoundKeys_len : s.deriveRoundKeys.len = s.len := rfl
@[simp] theorem State.deriveRoundKeys_gfA : s.deriveRoundKeys.gfA = s.gfA := rfl
@[simp] theorem State.deriveRoundKeys_gfB : s.deriveRoundKeys.gfB = s.gfB := rfl
@[simp] theorem State.deriveRoundKeys_gfP : s.deriveRoundKeys.gfP = s.gfP := rfl
@[simp] theorem State.deriveRoundKeys_ctrLo : s.deriveRoundKeys.ctrLo = s.ctrLo := rfl
@[simp] theorem State.deriveRoundKeys_ctrHi : s.deriveRoundKeys.ctrHi = s.ctrHi := rfl
@[simp] theorem State.deriveRoundKeys_key : s.deriveRoundKeys.key = s.key := rfl
@[simp] theorem State.deriveRoundKeys_state : s.deriveRoundKeys.state = s.state := rfl
@[simp] theorem State.deriveRoundKeys_tag : s.deriveRoundKeys.tag = s.tag := rfl
@[simp] theorem State.deriveRoundKeys_rk : s.deriveRoundKeys.rk = expand s.rom s.key := rfl
@[simp] theorem State.deriveRoundKeys_buf : s.deriveRoundKeys.buf = s.buf := rfl
@[simp] theorem State.deriveRoundKeys_rom : s.deriveRoundKeys.rom = s.rom := rfl
@[simp] theorem State.deriveRoundKeys_bufSize : s.deriveRoundKeys.bufSize = s.bufSize := rfl
@[simp] theorem State.deriveRoundKeys_inputs : s.deriveRoundKeys.inputs = s.inputs := rfl
@[simp] theorem State.deriveRoundKeys_responses : s.deriveRoundKeys.responses = s.responses := rfl

end deriveRoundKeys

section writeStatus
variable (s : State) (v : Word)

@[simp] theorem State.writeStatus_seq : (s.writeStatus v).seq = s.seq := rfl
@[simp] theorem State.writeStatus_ie : (s.writeStatus v).ie = s.ie := rfl
@[simp] theorem State.writeStatus_done : (s.writeStatus v).done = (s.done && !v.getLsbD 1) := rfl
@[simp] theorem State.writeStatus_ovr : (s.writeStatus v).ovr = (s.ovr && !v.getLsbD 2) := rfl
@[simp] theorem State.writeStatus_rkValid : (s.writeStatus v).rkValid = s.rkValid := rfl
@[simp] theorem State.writeStatus_sboxOk : (s.writeStatus v).sboxOk = s.sboxOk := rfl
@[simp] theorem State.writeStatus_err : (s.writeStatus v).err = s.err := rfl
@[simp] theorem State.writeStatus_cmd : (s.writeStatus v).cmd = s.cmd := rfl
@[simp] theorem State.writeStatus_len : (s.writeStatus v).len = s.len := rfl
@[simp] theorem State.writeStatus_gfA : (s.writeStatus v).gfA = s.gfA := rfl
@[simp] theorem State.writeStatus_gfB : (s.writeStatus v).gfB = s.gfB := rfl
@[simp] theorem State.writeStatus_gfP : (s.writeStatus v).gfP = s.gfP := rfl
@[simp] theorem State.writeStatus_ctrLo : (s.writeStatus v).ctrLo = s.ctrLo := rfl
@[simp] theorem State.writeStatus_ctrHi : (s.writeStatus v).ctrHi = s.ctrHi := rfl
@[simp] theorem State.writeStatus_key : (s.writeStatus v).key = s.key := rfl
@[simp] theorem State.writeStatus_state : (s.writeStatus v).state = s.state := rfl
@[simp] theorem State.writeStatus_tag : (s.writeStatus v).tag = s.tag := rfl
@[simp] theorem State.writeStatus_rk : (s.writeStatus v).rk = s.rk := rfl
@[simp] theorem State.writeStatus_buf : (s.writeStatus v).buf = s.buf := rfl
@[simp] theorem State.writeStatus_rom : (s.writeStatus v).rom = s.rom := rfl
@[simp] theorem State.writeStatus_bufSize : (s.writeStatus v).bufSize = s.bufSize := rfl
@[simp] theorem State.writeStatus_inputs : (s.writeStatus v).inputs = s.inputs := rfl
@[simp] theorem State.writeStatus_responses : (s.writeStatus v).responses = s.responses := rfl

end writeStatus

section writeCtrl
variable (s : State) (v : Word)

@[simp] theorem State.writeCtrl_seq : (s.writeCtrl v).seq = s.seq := rfl
@[simp] theorem State.writeCtrl_ie : (s.writeCtrl v).ie = v.getLsbD 0 := rfl
@[simp] theorem State.writeCtrl_done : (s.writeCtrl v).done = s.done := rfl
@[simp] theorem State.writeCtrl_ovr : (s.writeCtrl v).ovr = s.ovr := rfl
@[simp] theorem State.writeCtrl_rkValid : (s.writeCtrl v).rkValid = s.rkValid := rfl
@[simp] theorem State.writeCtrl_sboxOk : (s.writeCtrl v).sboxOk = s.sboxOk := rfl
@[simp] theorem State.writeCtrl_err : (s.writeCtrl v).err = s.err := rfl
@[simp] theorem State.writeCtrl_cmd : (s.writeCtrl v).cmd = s.cmd := rfl
@[simp] theorem State.writeCtrl_len : (s.writeCtrl v).len = s.len := rfl
@[simp] theorem State.writeCtrl_gfA : (s.writeCtrl v).gfA = s.gfA := rfl
@[simp] theorem State.writeCtrl_gfB : (s.writeCtrl v).gfB = s.gfB := rfl
@[simp] theorem State.writeCtrl_gfP : (s.writeCtrl v).gfP = s.gfP := rfl
@[simp] theorem State.writeCtrl_ctrLo : (s.writeCtrl v).ctrLo = s.ctrLo := rfl
@[simp] theorem State.writeCtrl_ctrHi : (s.writeCtrl v).ctrHi = s.ctrHi := rfl
@[simp] theorem State.writeCtrl_key : (s.writeCtrl v).key = s.key := rfl
@[simp] theorem State.writeCtrl_state : (s.writeCtrl v).state = s.state := rfl
@[simp] theorem State.writeCtrl_tag : (s.writeCtrl v).tag = s.tag := rfl
@[simp] theorem State.writeCtrl_rk : (s.writeCtrl v).rk = s.rk := rfl
@[simp] theorem State.writeCtrl_buf : (s.writeCtrl v).buf = s.buf := rfl
@[simp] theorem State.writeCtrl_rom : (s.writeCtrl v).rom = s.rom := rfl
@[simp] theorem State.writeCtrl_bufSize : (s.writeCtrl v).bufSize = s.bufSize := rfl
@[simp] theorem State.writeCtrl_inputs : (s.writeCtrl v).inputs = s.inputs := rfl
@[simp] theorem State.writeCtrl_responses : (s.writeCtrl v).responses = s.responses := rfl

end writeCtrl

section respond
variable (s : State) (r : Response)

@[simp] theorem State.respond_seq : (s.respond r).seq = s.seq := rfl
@[simp] theorem State.respond_ie : (s.respond r).ie = s.ie := rfl
@[simp] theorem State.respond_done : (s.respond r).done = s.done := rfl
@[simp] theorem State.respond_ovr : (s.respond r).ovr = s.ovr := rfl
@[simp] theorem State.respond_rkValid : (s.respond r).rkValid = s.rkValid := rfl
@[simp] theorem State.respond_sboxOk : (s.respond r).sboxOk = s.sboxOk := rfl
@[simp] theorem State.respond_err : (s.respond r).err = s.err := rfl
@[simp] theorem State.respond_cmd : (s.respond r).cmd = s.cmd := rfl
@[simp] theorem State.respond_len : (s.respond r).len = s.len := rfl
@[simp] theorem State.respond_gfA : (s.respond r).gfA = s.gfA := rfl
@[simp] theorem State.respond_gfB : (s.respond r).gfB = s.gfB := rfl
@[simp] theorem State.respond_gfP : (s.respond r).gfP = s.gfP := rfl
@[simp] theorem State.respond_ctrLo : (s.respond r).ctrLo = s.ctrLo := rfl
@[simp] theorem State.respond_ctrHi : (s.respond r).ctrHi = s.ctrHi := rfl
@[simp] theorem State.respond_key : (s.respond r).key = s.key := rfl
@[simp] theorem State.respond_state : (s.respond r).state = s.state := rfl
@[simp] theorem State.respond_tag : (s.respond r).tag = s.tag := rfl
@[simp] theorem State.respond_rk : (s.respond r).rk = s.rk := rfl
@[simp] theorem State.respond_buf : (s.respond r).buf = s.buf := rfl
@[simp] theorem State.respond_rom : (s.respond r).rom = s.rom := rfl
@[simp] theorem State.respond_bufSize : (s.respond r).bufSize = s.bufSize := rfl
@[simp] theorem State.respond_inputs : (s.respond r).inputs = s.inputs := rfl
@[simp] theorem State.respond_responses : (s.respond r).responses = r :: s.responses := rfl

end respond

section selfCheck
variable (s : State)

@[simp] theorem State.selfCheck_seq : s.selfCheck.seq = .idle := rfl
@[simp] theorem State.selfCheck_ie : s.selfCheck.ie = s.ie := rfl
@[simp] theorem State.selfCheck_done : s.selfCheck.done = s.done := rfl
@[simp] theorem State.selfCheck_ovr : s.selfCheck.ovr = s.ovr := rfl
@[simp] theorem State.selfCheck_rkValid : s.selfCheck.rkValid = s.rkValid := rfl
@[simp] theorem State.selfCheck_sboxOk : s.selfCheck.sboxOk = s.rom.pairOk := rfl
@[simp] theorem State.selfCheck_err : s.selfCheck.err = if s.rom.pairOk then s.err else .sboxInitFailure := rfl
@[simp] theorem State.selfCheck_cmd : s.selfCheck.cmd = s.cmd := rfl
@[simp] theorem State.selfCheck_len : s.selfCheck.len = s.len := rfl
@[simp] theorem State.selfCheck_gfA : s.selfCheck.gfA = s.gfA := rfl
@[simp] theorem State.selfCheck_gfB : s.selfCheck.gfB = s.gfB := rfl
@[simp] theorem State.selfCheck_gfP : s.selfCheck.gfP = s.gfP := rfl
@[simp] theorem State.selfCheck_ctrLo : s.selfCheck.ctrLo = s.ctrLo := rfl
@[simp] theorem State.selfCheck_ctrHi : s.selfCheck.ctrHi = s.ctrHi := rfl
@[simp] theorem State.selfCheck_key : s.selfCheck.key = s.key := rfl
@[simp] theorem State.selfCheck_state : s.selfCheck.state = s.state := rfl
@[simp] theorem State.selfCheck_tag : s.selfCheck.tag = s.tag := rfl
@[simp] theorem State.selfCheck_rk : s.selfCheck.rk = s.rk := rfl
@[simp] theorem State.selfCheck_buf : s.selfCheck.buf = s.buf := rfl
@[simp] theorem State.selfCheck_rom : s.selfCheck.rom = s.rom := rfl
@[simp] theorem State.selfCheck_bufSize : s.selfCheck.bufSize = s.bufSize := rfl
@[simp] theorem State.selfCheck_inputs : s.selfCheck.inputs = s.inputs := rfl
@[simp] theorem State.selfCheck_responses : s.selfCheck.responses = s.responses := rfl

end selfCheck

section powerUp
variable (rom : Rom) (n : BufSize) (m : Memory) (k : RoundKeys) (is : List Input) (rs : List Response)

@[simp] theorem State.powerUp_seq : (State.powerUp rom n m k is rs).seq = .selftest := rfl
@[simp] theorem State.powerUp_ie : (State.powerUp rom n m k is rs).ie = false := rfl
@[simp] theorem State.powerUp_done : (State.powerUp rom n m k is rs).done = false := rfl
@[simp] theorem State.powerUp_ovr : (State.powerUp rom n m k is rs).ovr = false := rfl
@[simp] theorem State.powerUp_rkValid : (State.powerUp rom n m k is rs).rkValid = false := rfl
@[simp] theorem State.powerUp_sboxOk : (State.powerUp rom n m k is rs).sboxOk = false := rfl
@[simp] theorem State.powerUp_err : (State.powerUp rom n m k is rs).err = .none := rfl
@[simp] theorem State.powerUp_cmd : (State.powerUp rom n m k is rs).cmd = 0 := rfl
@[simp] theorem State.powerUp_len : (State.powerUp rom n m k is rs).len = 0 := rfl
@[simp] theorem State.powerUp_gfA : (State.powerUp rom n m k is rs).gfA = 0 := rfl
@[simp] theorem State.powerUp_gfB : (State.powerUp rom n m k is rs).gfB = 0 := rfl
@[simp] theorem State.powerUp_gfP : (State.powerUp rom n m k is rs).gfP = 0 := rfl
@[simp] theorem State.powerUp_ctrLo : (State.powerUp rom n m k is rs).ctrLo = 0 := rfl
@[simp] theorem State.powerUp_ctrHi : (State.powerUp rom n m k is rs).ctrHi = 0 := rfl
@[simp] theorem State.powerUp_key : (State.powerUp rom n m k is rs).key = Block.zero := rfl
@[simp] theorem State.powerUp_state : (State.powerUp rom n m k is rs).state = Block.zero := rfl
@[simp] theorem State.powerUp_tag : (State.powerUp rom n m k is rs).tag = Block.zero := rfl
@[simp] theorem State.powerUp_rk : (State.powerUp rom n m k is rs).rk = k := rfl
@[simp] theorem State.powerUp_buf : (State.powerUp rom n m k is rs).buf = m := rfl
@[simp] theorem State.powerUp_rom : (State.powerUp rom n m k is rs).rom = rom := rfl
@[simp] theorem State.powerUp_bufSize : (State.powerUp rom n m k is rs).bufSize = n := rfl
@[simp] theorem State.powerUp_inputs : (State.powerUp rom n m k is rs).inputs = is := rfl
@[simp] theorem State.powerUp_responses : (State.powerUp rom n m k is rs).responses = rs := rfl

end powerUp

end Sys2Proof.Machine
end

