-- ==== Sys2Proof/Laws/Bus.lean ====
section
/-! SUPPORT. The address map range by range, and the byte lanes of a bus word. -/

namespace Sys2Proof.Machine

/-- An aligned address goes where the map sends it. -/
theorem State.target_of_aligned (s : State) {a : Addr} (h : a.toNat % 4 = 0) :
    s.target a = mapOffset s.bufBytes a.toNat := by
  simp [State.target, h]

theorem mapOffset_key {b n : Nat} (h1 : 0x0020 ≤ n) (h2 : n < 0x0030) :
    mapOffset b n = some (.key ⟨(n - 0x0020) / 4, by omega⟩) := by
  simp (disch := omega) only [mapOffset, if_neg]
  rw [dif_pos (by omega)]

theorem mapOffset_state {b n : Nat} (h1 : 0x0030 ≤ n) (h2 : n < 0x0040) :
    mapOffset b n = some (.state ⟨(n - 0x0030) / 4, by omega⟩) := by
  simp (disch := omega) only [mapOffset, if_neg, dif_neg]
  rw [dif_pos (by omega)]

theorem mapOffset_tag {b n : Nat} (h1 : 0x0040 ≤ n) (h2 : n < 0x0050) :
    mapOffset b n = some (.tag ⟨(n - 0x0040) / 4, by omega⟩) := by
  simp (disch := omega) only [mapOffset, if_neg, dif_neg]
  rw [dif_pos (by omega)]

theorem mapOffset_rk {b n : Nat} (h1 : 0x0100 ≤ n) (h2 : n < 0x01B0) :
    mapOffset b n = some (.rk ⟨(n - 0x0100) / 16, by omega⟩ ⟨(n - 0x0100) % 16 / 4, by omega⟩) := by
  simp (disch := omega) only [mapOffset, if_neg, dif_neg]
  rw [dif_pos (by omega)]

theorem mapOffset_buf {b n : Nat} (h1 : 0x1000 ≤ n) (h2 : n < 0x1000 + b) :
    mapOffset b n = some (.buf (n - 0x1000)) := by
  simp (disch := omega) only [mapOffset, if_neg, dif_neg, if_pos]

theorem mapOffset_hole {b n : Nat}
    (h : (0x0050 ≤ n ∧ n < 0x0100) ∨ (0x01B0 ≤ n ∧ n < 0x1000) ∨ (0x1000 ≤ n ∧ 0x1000 + b ≤ n)) :
    mapOffset b n = none := by
  simp (disch := omega) only [mapOffset, if_neg, dif_neg]

/-- The eight scalar registers below KEY. -/
theorem mapOffset_scalar {b n : Nat} (h : n < 0x0020) (h4 : n % 4 = 0) :
    (n = 0x0000 ∧ mapOffset b n = some .id) ∨ (n = 0x0004 ∧ mapOffset b n = some .ctrl) ∨
    (n = 0x0008 ∧ mapOffset b n = some .status) ∨ (n = 0x000C ∧ mapOffset b n = some .cmd) ∨
    (n = 0x0010 ∧ mapOffset b n = some .len) ∨ (n = 0x0014 ∧ mapOffset b n = some .gf) ∨
    (n = 0x0018 ∧ mapOffset b n = some .ctrLo) ∨ (n = 0x001C ∧ mapOffset b n = some .ctrHi) := by
  have : n = 0x0000 ∨ n = 0x0004 ∨ n = 0x0008 ∨ n = 0x000C ∨ n = 0x0010 ∨ n = 0x0014 ∨ n = 0x0018 ∨ n = 0x001C := by
    omega
  rcases this with rfl | rfl | rfl | rfl | rfl | rfl | rfl | rfl <;> simp [mapOffset]

/-- Lane i of a word put together from four bytes. -/
theorem byteLane_wordOfBytes (b0 b1 b2 b3 : Byte) :
    byteLane (wordOfBytes b0 b1 b2 b3) 0 = b0 ∧ byteLane (wordOfBytes b0 b1 b2 b3) 1 = b1 ∧
    byteLane (wordOfBytes b0 b1 b2 b3) 2 = b2 ∧ byteLane (wordOfBytes b0 b1 b2 b3) 3 = b3 := by
  unfold byteLane wordOfBytes
  refine ⟨?_, ?_, ?_, ?_⟩ <;>
    (apply BitVec.eq_of_getLsbD_eq
     intro j hj
     have h1 : ∀ k, 8 ≤ k → ¬k + j < 8 := by intro k hk; omega
     simp only [BitVec.getLsbD_extractLsb', BitVec.getLsbD_append, hj, decide_true, Bool.true_and])
  · simp [hj]
  · simp [h1, hj]
  · simp [h1, hj, show ¬16 + j - 8 < 8 by omega, show 16 + j - 8 - 8 = j by omega]
  · simp [h1, hj, show ¬24 + j - 8 < 8 by omega, show ¬24 + j - 8 - 8 < 8 by omega,
      show 24 + j - 8 - 8 - 8 = j by omega]

/-- The four lanes of a word make the word. -/
theorem wordOfBytes_byteLane (v : Word) :
    wordOfBytes (byteLane v 0) (byteLane v 1) (byteLane v 2) (byteLane v 3) = v := by
  unfold wordOfBytes byteLane
  apply BitVec.eq_of_getLsbD_eq
  intro j hj
  simp only [BitVec.getLsbD_append, BitVec.getLsbD_extractLsb']
  have h : j < 8 ∨ (8 ≤ j ∧ j < 16) ∨ (16 ≤ j ∧ j < 24) ∨ (24 ≤ j ∧ j < 32) := by omega
  rcases h with h | ⟨h, h'⟩ | ⟨h, h'⟩ | ⟨h, h'⟩
  · simp [h]
  · simp [show ¬j < 8 by omega, show j - 8 < 8 by omega]
    congr 1
    omega
  · simp [show ¬j < 8 by omega, show ¬j - 8 < 8 by omega, show j - 8 - 8 < 8 by omega]
    congr 1
    omega
  · simp [show ¬j < 8 by omega, show ¬j - 8 < 8 by omega, show ¬j - 8 - 8 < 8 by omega,
      show j - 8 - 8 - 8 < 8 by omega]
    congr 1
    omega

/-- A bus word of a 16-byte register reads back as written. -/
theorem blockWord_setBlockWord (b : Block) (i : Fin 4) (v : Word) : blockWord (setBlockWord b i v) i = v := by
  have e : ∀ k, k < 4 → (4 * i.val + k) / 4 = i.val ∧ (4 * i.val + k) % 4 = k := by intro k; omega
  have e0 := e 0 (by omega)
  have e1 := e 1 (by omega)
  have e2 := e 2 (by omega)
  have e3 := e 3 (by omega)
  simp only [Nat.add_zero] at e0
  simp [blockWord, setBlockWord, e0, e1, e2, e3, wordOfBytes_byteLane]

/-- Everything a bus write can do. -/
theorem State.busWrite_cases (s : State) (a : Addr) (v : Word) :
    (s.target a = none ∧ s.busWrite a v = s) ∨
    ∃ t, s.target a = some t ∧
      ((s.busy = true ∧ t.writableWhileBusy = false ∧ s.busWrite a v = { s with ovr := true }) ∨
        ((s.busy = false ∨ t.writableWhileBusy = true) ∧ s.busWrite a v = s.writeTarget v t)) := by
  unfold State.busWrite
  cases ht : s.target a with
  | none => exact .inl ⟨rfl, rfl⟩
  | some t =>
    refine .inr ⟨t, rfl, ?_⟩
    cases hb : s.busy <;> cases hw : t.writableWhileBusy <;> simp [hw]

end Sys2Proof.Machine
end

