-- ==== Sys2Proof/Laws/Ops.lean ====
section
/-! SUPPORT. What a running command can do, said once: the checks in order, the completion, and the case split of a run. -/

namespace Sys2Proof.Machine

@[simp] theorem firstError_nil : firstError [] = none := rfl

@[simp] theorem firstError_cons (b : Bool) (e : ErrCode) (rest : List (Bool × ErrCode)) :
    firstError ((b, e) :: rest) = if b then some e else firstError rest := rfl

/-- With SBOX_OK = 0 a command completes with SBOX_INIT_FAILURE, whatever its checks. -/
theorem runCommand_sboxFailure {s : State} {checks : List (Bool × ErrCode)} {body : State → State × ErrCode}
    (h : s.sboxOk = false) : runCommand s checks body = .next (s.complete .sboxInitFailure) := by
  simp [runCommand, h]

/-- A failing check completes the command with its code. -/
theorem runCommand_fails {s : State} {checks : List (Bool × ErrCode)} {body : State → State × ErrCode} {e : ErrCode}
    (h : s.sboxOk = true) (he : firstError checks = some e) : runCommand s checks body = .next (s.complete e) := by
  simp [runCommand, h, he]

/-- With no failing check a command writes its effect and completes. -/
theorem runCommand_runs {s : State} {checks : List (Bool × ErrCode)} {body : State → State × ErrCode}
    (h : s.sboxOk = true) (he : firstError checks = none) :
    runCommand s checks body = .next ((body s).1.complete (body s).2) := by
  simp [runCommand, h, he]

/-- Everything a running command can do: fail a check and only complete, or write its effect and complete. -/
theorem runCommand_cases {s t : State} {checks : List (Bool × ErrCode)} {body : State → State × ErrCode}
    (h : runCommand s checks body = .next t) :
    (s.sboxOk = false ∧ t = s.complete .sboxInitFailure) ∨
    (s.sboxOk = true ∧ ∃ e, firstError checks = some e ∧ t = s.complete e) ∨
    (s.sboxOk = true ∧ firstError checks = none ∧ t = (body s).1.complete (body s).2) := by
  cases hs : s.sboxOk with
  | false => exact .inl ⟨rfl, by simpa [runCommand_sboxFailure hs] using h.symm⟩
  | true =>
    cases he : firstError checks with
    | none => exact .inr (.inr ⟨rfl, rfl, by simpa [runCommand_runs hs he] using h.symm⟩)
    | some e => exact .inr (.inl ⟨rfl, e, rfl, by simpa [runCommand_fails hs he] using h.symm⟩)

/-- A running command always answers a next state. -/
theorem runCommand_next (s : State) (checks : List (Bool × ErrCode)) (body : State → State × ErrCode) :
    ∃ t, runCommand s checks body = .next t := by
  unfold runCommand
  split <;> exact ⟨_, rfl⟩

/-- An ILLEGAL word only completes. -/
theorem runIllegal_eq (s : State) :
    runIllegal s = .next (s.complete (if s.sboxOk then .illegalCommand else .sboxInitFailure)) := by
  cases h : s.sboxOk <;> simp [runIllegal, runCommand, h]

end Sys2Proof.Machine
end

