-- ==== Sys2Proof/Laws/Exec.lean ====
section
/-! SUPPORT. Every command in one shape, its checks and its effect, so that a fact about all commands is a fact about `runCommand`. -/

namespace Sys2Proof.Machine

/-- A command's own checks in their order (spec/60_exceptions.md R275). -/
def commandChecks : Instr → State → List (Bool × ErrCode)
  | .addRoundKey k, s =>
    if k.toNat ≤ 10 then [(!s.rkValid, .keyNotExpanded)] else [(true, .illegalCommand)]
  | .encryptBlock, s => [(!s.rkValid, .keyNotExpanded)]
  | .decryptBlock, s => [(!s.rkValid, .keyNotExpanded)]
  | .ctrApply, s =>
    [(!s.rkValid, .keyNotExpanded), (s.length > s.bufBytes, .lengthOutOfRange),
      (counterOverflows s.counter (blockCount s.length), .counterOverflow)]
  | .cbcMac, s =>
    [(!s.rkValid, .keyNotExpanded), (s.length > s.bufBytes, .lengthOutOfRange),
      (s.length % 16 ≠ 0, .invalidMacInputLength)]
  | .sealMsg, s =>
    [(s.length > s.bufBytes - 16, .lengthOutOfRange),
      (counterOverflows s.counter (blockCount s.length), .counterOverflow)]
  | .openMsg, s =>
    [(s.length > s.bufBytes, .lengthOutOfRange),
      (s.length < 16 ∨ (s.length - 16) % 16 ≠ 0, .invalidMacInputLength),
      (counterOverflows s.counter ((s.length - 16) / 16), .counterOverflow)]
  | .gfAdd, _ => []
  | .gfMul, _ => []
  | .subBytes, _ => []
  | .invSubBytes, _ => []
  | .shiftRows, _ => []
  | .invShiftRows, _ => []
  | .mixColumns, _ => []
  | .invMixColumns, _ => []
  | .expandKey, _ => []

/-- A command's effect and the code it ends with, once its checks have passed. -/
def commandEffect : Instr → State → State × ErrCode
  | .gfAdd, s => (s.writeGfP (gfAdd s.gfA s.gfB), .none)
  | .gfMul, s => (s.writeGfP (gfMul s.gfA s.gfB), .none)
  | .subBytes, s => (s.writeState (subBytes s.rom s.state), .none)
  | .invSubBytes, s => (s.writeState (subBytesInv s.rom s.state), .none)
  | .shiftRows, s => (s.writeState (shiftRows s.state), .none)
  | .invShiftRows, s => (s.writeState (shiftRowsInv s.state), .none)
  | .mixColumns, s => (s.writeState (mixColumns s.state), .none)
  | .invMixColumns, s => (s.writeState (mixColumnsInv s.state), .none)
  | .addRoundKey k, s =>
    if h : k.toNat ≤ 10 then (s.writeState (addRoundKey s.state s.rk[k.toNat]), .none) else (s, .none)
  | .expandKey, s => (s.deriveRoundKeys, .none)
  | .encryptBlock, s => (s.writeState (encrypt s.rom s.state s.rk), .none)
  | .decryptBlock, s => (s.writeState (decrypt s.rom s.state s.rk), .none)
  | .ctrApply, s =>
    ((s.writeMessage (ctrApply s.rom s.message s.rk s.counter)).writeLen (pad16 s.length), .none)
  | .cbcMac, s => (s.writeTag (cbcMac s.rom s.message s.rk), .none)
  | .sealMsg, s =>
    (((s.deriveRoundKeys.writeMessage (sealString s.rom s.message s.key s.counter)).writeTag
      (sealParts s.rom s.message s.key s.counter).2).writeLen (pad16 s.length + 16), .none)
  | .openMsg, s =>
    match openString s.rom s.message s.key s.counter with
    | none => (s.deriveRoundKeys, .tamperedCiphertext)
    | some pt => ((s.deriveRoundKeys.writeMessage pt).writeLen (s.length - 16), .none)

/-! The effect of each command as an equation, for `simp` and `rw` (unfolding `commandEffect` itself is slow). -/

@[simp] theorem commandEffect_gfAdd (s : State) : commandEffect .gfAdd s =
    (s.writeGfP (gfAdd s.gfA s.gfB), .none) := rfl

@[simp] theorem commandEffect_gfMul (s : State) : commandEffect .gfMul s =
    (s.writeGfP (gfMul s.gfA s.gfB), .none) := rfl

@[simp] theorem commandEffect_subBytes (s : State) : commandEffect .subBytes s =
    (s.writeState (subBytes s.rom s.state), .none) := rfl

@[simp] theorem commandEffect_invSubBytes (s : State) : commandEffect .invSubBytes s =
    (s.writeState (subBytesInv s.rom s.state), .none) := rfl

@[simp] theorem commandEffect_shiftRows (s : State) : commandEffect .shiftRows s =
    (s.writeState (shiftRows s.state), .none) := rfl

@[simp] theorem commandEffect_invShiftRows (s : State) : commandEffect .invShiftRows s =
    (s.writeState (shiftRowsInv s.state), .none) := rfl

@[simp] theorem commandEffect_mixColumns (s : State) : commandEffect .mixColumns s =
    (s.writeState (mixColumns s.state), .none) := rfl

@[simp] theorem commandEffect_invMixColumns (s : State) : commandEffect .invMixColumns s =
    (s.writeState (mixColumnsInv s.state), .none) := rfl

@[simp] theorem commandEffect_expandKey (s : State) : commandEffect .expandKey s =
    (s.deriveRoundKeys, .none) := rfl

@[simp] theorem commandEffect_encryptBlock (s : State) : commandEffect .encryptBlock s =
    (s.writeState (encrypt s.rom s.state s.rk), .none) := rfl

@[simp] theorem commandEffect_decryptBlock (s : State) : commandEffect .decryptBlock s =
    (s.writeState (decrypt s.rom s.state s.rk), .none) := rfl

@[simp] theorem commandEffect_ctrApply (s : State) : commandEffect .ctrApply s =
    ((s.writeMessage (ctrApply s.rom s.message s.rk s.counter)).writeLen (pad16 s.length), .none) := rfl

@[simp] theorem commandEffect_cbcMac (s : State) : commandEffect .cbcMac s =
    (s.writeTag (cbcMac s.rom s.message s.rk), .none) := rfl

@[simp] theorem commandEffect_sealMsg (s : State) : commandEffect .sealMsg s =
    (((s.deriveRoundKeys.writeMessage (sealString s.rom s.message s.key s.counter)).writeTag
        (sealParts s.rom s.message s.key s.counter).2).writeLen (pad16 s.length + 16), .none) := rfl

theorem commandEffect_addRoundKey {k : BitVec 4} (h : k.toNat ≤ 10) (s : State) :
    commandEffect (.addRoundKey k) s = (s.writeState (addRoundKey s.state s.rk[k.toNat]), .none) := dif_pos h

theorem commandEffect_addRoundKey_illegal {k : BitVec 4} (h : ¬k.toNat ≤ 10) (s : State) :
    commandEffect (.addRoundKey k) s = (s, .none) := dif_neg h

theorem commandEffect_openMsg_tampered {s : State} (h : openString s.rom s.message s.key s.counter = none) :
    commandEffect .openMsg s = (s.deriveRoundKeys, .tamperedCiphertext) := by
  unfold commandEffect
  simp [h]

theorem commandEffect_openMsg_verified {s : State} {pt : List Byte}
    (h : openString s.rom s.message s.key s.counter = some pt) :
    commandEffect .openMsg s = ((s.deriveRoundKeys.writeMessage pt).writeLen (s.length - 16), .none) := by
  unfold commandEffect
  simp [h]

/-- Every command is its checks followed by its effect. -/
theorem exec_eq (i : Instr) (s : State) : exec i s = runCommand s (commandChecks i s) (commandEffect i) := by
  cases i with
  | addRoundKey k =>
    by_cases h : k.toNat ≤ 10
    · have hbody : commandEffect (.addRoundKey k) =
          fun s => (s.writeState (addRoundKey s.state s.rk[k.toNat]), .none) := by
        funext s
        exact dif_pos h
      simp only [exec, execAddRoundKey, dif_pos h, commandChecks, if_pos h, hbody]
    · cases hs : s.sboxOk <;> simp [exec, execAddRoundKey, h, commandChecks, runIllegal, runCommand, hs]
  | sealMsg => rfl
  | openMsg =>
    unfold exec execOpenMsg
    refine congrArg (runCommand s _) (funext fun t => ?_)
    cases h : openString t.rom t.message t.key t.counter with
    | none => rw [commandEffect_openMsg_tampered h]
    | some pt => rw [commandEffect_openMsg_verified h]
  | gfAdd => rfl
  | gfMul => rfl
  | subBytes => rfl
  | invSubBytes => rfl
  | shiftRows => rfl
  | invShiftRows => rfl
  | mixColumns => rfl
  | invMixColumns => rfl
  | expandKey => rfl
  | encryptBlock => rfl
  | decryptBlock => rfl
  | ctrApply => rfl
  | cbcMac => rfl

/-- A command whose first failing check gives e only completes with e. -/
theorem exec_fails {i : Instr} {s : State} {e : ErrCode} (h : s.sboxOk = true)
    (he : firstError (commandChecks i s) = some e) : exec i s = .next (s.complete e) := by
  rw [exec_eq, runCommand_fails h he]

/-- A command whose checks pass writes its effect and completes. -/
theorem exec_runs {i : Instr} {s : State} (h : s.sboxOk = true) (he : firstError (commandChecks i s) = none) :
    exec i s = .next ((commandEffect i s).1.complete (commandEffect i s).2) := by
  rw [exec_eq, runCommand_runs h he]

/-- Everything a command can do when it answers a next state. -/
theorem exec_cases {i : Instr} {s t : State} (h : exec i s = .next t) :
    (s.sboxOk = false ∧ t = s.complete .sboxInitFailure) ∨
    (s.sboxOk = true ∧ ∃ e, firstError (commandChecks i s) = some e ∧ t = s.complete e) ∨
    (s.sboxOk = true ∧ firstError (commandChecks i s) = none ∧
      t = (commandEffect i s).1.complete (commandEffect i s).2) :=
  runCommand_cases (exec_eq i s ▸ h)

end Sys2Proof.Machine
end

