-- ==== Sys2Proof/Laws/Field.lean ====
section
/-! SUPPORT. GF(2^8) multiplication respects xor in each operand, so that an identity between products is checked on the 8 powers of x. -/

namespace Sys2Proof.Machine

/-- Equal summands cancel. -/
theorem xor_cancel_left (d p q : Byte) : d ^^^ p ^^^ (d ^^^ q) = p ^^^ q := by
  have : d ^^^ p ^^^ (d ^^^ q) = (d ^^^ d) ^^^ (p ^^^ q) := by ac_rfl
  simpa using this

/-- A byte map that respects xor. -/
def XorLinear (f : Byte → Byte) : Prop := ∀ x y, f (x ^^^ y) = f x ^^^ f y

theorem XorLinear.zero {f : Byte → Byte} (hf : XorLinear f) : f 0 = 0 := by
  have := hf 0 0
  simpa using this

theorem XorLinear.xor {f g : Byte → Byte} (hf : XorLinear f) (hg : XorLinear g) : XorLinear fun x => f x ^^^ g x := by
  intro x y
  simp only [hf x y, hg x y]
  ac_rfl

theorem XorLinear.comp {f g : Byte → Byte} (hf : XorLinear f) (hg : XorLinear g) : XorLinear fun x => f (g x) := by
  intro x y
  simp only [hg x y, hf (g x) (g y)]

theorem XorLinear.id : XorLinear fun x => x := fun _ _ => rfl

/-- A byte is the sum of its bits. -/
theorem byte_eq_bits (x : Byte) :
    x = (if x.getLsbD 0 then 1 else 0) ^^^ (if x.getLsbD 1 then 2 else 0) ^^^ (if x.getLsbD 2 then 4 else 0) ^^^
      (if x.getLsbD 3 then 8 else 0) ^^^ (if x.getLsbD 4 then 16 else 0) ^^^ (if x.getLsbD 5 then 32 else 0) ^^^
      (if x.getLsbD 6 then 64 else 0) ^^^ (if x.getLsbD 7 then 128 else 0) := by
  revert x
  decide +kernel

/-- Two such maps that agree on the powers of x agree everywhere. -/
theorem XorLinear.ext {f g : Byte → Byte} (hf : XorLinear f) (hg : XorLinear g)
    (h : ∀ b ∈ ([1, 2, 4, 8, 16, 32, 64, 128] : List Byte), f b = g b) (x : Byte) : f x = g x := by
  have bit : ∀ (c : Bool) (b : Byte), b ∈ ([1, 2, 4, 8, 16, 32, 64, 128] : List Byte) →
      f (if c then b else 0) = g (if c then b else 0) := by
    intro c b hb
    cases c
    · simpa using hf.zero.trans hg.zero.symm
    · simpa using h b hb
  rw [byte_eq_bits x]
  simp only [hf _ _, hg _ _]
  rw [bit _ 1 (by simp), bit _ 2 (by simp), bit _ 4 (by simp), bit _ 8 (by simp), bit _ 16 (by simp),
    bit _ 32 (by simp), bit _ 64 (by simp), bit _ 128 (by simp)]

theorem xtime_xorLinear : XorLinear xtime := by
  intro x y
  simp only [xtime, BitVec.shiftLeft_xor_distrib, BitVec.getLsbD_xor]
  cases x.getLsbD 7 <;> cases y.getLsbD 7 <;> simp
  · ac_rfl
  · ac_rfl
  · have := xor_cancel_left 0x1B (x <<< 1) (y <<< 1)
    rw [← this]
    ac_rfl

theorem gfMulLoop_acc (n : Nat) (acc d b : Byte) : gfMulLoop n acc d b = acc ^^^ gfMulLoop n 0 d b := by
  induction n generalizing acc d b with
  | zero => simp [gfMulLoop]
  | succ n ih =>
    rw [gfMulLoop, ih, gfMulLoop, ih (if b.getLsbD 0 then gfAdd 0 d else 0)]
    split <;> simp [gfAdd, BitVec.xor_assoc]

theorem gfMulLoop_xorLinear_right (n : Nat) (d : Byte) : XorLinear fun b => gfMulLoop n 0 d b := by
  intro x y
  induction n generalizing d x y with
  | zero => simp [gfMulLoop]
  | succ n ih =>
    simp only [gfMulLoop]
    rw [gfMulLoop_acc, gfMulLoop_acc _ (if x.getLsbD 0 then _ else _), gfMulLoop_acc _ (if y.getLsbD 0 then _ else _)]
    simp only [BitVec.ushiftRight_xor_distrib, ih, BitVec.getLsbD_xor, gfAdd]
    cases x.getLsbD 0 <;> cases y.getLsbD 0 <;> simp
    · ac_rfl
    · ac_rfl
    · exact (xor_cancel_left d _ _).symm

theorem gfMulLoop_xorLinear_left (n : Nat) (b : Byte) : XorLinear fun d => gfMulLoop n 0 d b := by
  intro x y
  induction n generalizing b x y with
  | zero => simp [gfMulLoop]
  | succ n ih =>
    simp only [gfMulLoop]
    rw [gfMulLoop_acc, gfMulLoop_acc _ _ (xtime x), gfMulLoop_acc _ _ (xtime y)]
    simp only [xtime_xorLinear x y, ih, gfAdd]
    cases b.getLsbD 0 <;> simp
    all_goals ac_rfl

theorem gfMul_xorLinear_right (a : Byte) : XorLinear (gfMul a) := gfMulLoop_xorLinear_right 8 a

theorem gfMul_xorLinear_left (b : Byte) : XorLinear fun a => gfMul a b := gfMulLoop_xorLinear_left 8 b

end Sys2Proof.Machine
end

