-- ==== Sys2Proof/Laws/PerInstr.lean ====
section
/-! SUPPORT. Facts about every command as syntax, one lemma per constructor. -/

namespace Sys2Proof.Laws.EncodeFields

/-- A command's word holds its OP in bits 7:0, its round index in bits 11:8 and 0 in bits 31:12 (spec/30_encoding.md R90). -/
def Statement (i : Instr) : Prop :=
  opField (encode i) = opOf i ∧ kField (encode i) = kOf i ∧ resField (encode i) = 0

theorem gfAdd : Statement .gfAdd := by unfold Statement; decide
theorem gfMul : Statement .gfMul := by unfold Statement; decide
theorem subBytes : Statement .subBytes := by unfold Statement; decide
theorem invSubBytes : Statement .invSubBytes := by unfold Statement; decide
theorem shiftRows : Statement .shiftRows := by unfold Statement; decide
theorem invShiftRows : Statement .invShiftRows := by unfold Statement; decide
theorem mixColumns : Statement .mixColumns := by unfold Statement; decide
theorem invMixColumns : Statement .invMixColumns := by unfold Statement; decide
theorem addRoundKey (k : BitVec 4) : Statement (.addRoundKey k) := by unfold Statement; revert k; decide
theorem expandKey : Statement .expandKey := by unfold Statement; decide
theorem encryptBlock : Statement .encryptBlock := by unfold Statement; decide
theorem decryptBlock : Statement .decryptBlock := by unfold Statement; decide
theorem ctrApply : Statement .ctrApply := by unfold Statement; decide
theorem cbcMac : Statement .cbcMac := by unfold Statement; decide
theorem sealMsg : Statement .sealMsg := by unfold Statement; decide
theorem openMsg : Statement .openMsg := by unfold Statement; decide

end Sys2Proof.Laws.EncodeFields
end

