-- ==== Sys2Proof/Laws/Runs.lean ====
section
/-! SUPPORT. Runs of several commands, and bus traffic, one after another. -/

namespace Sys2Proof.Machine

theorem runCommands_nil (s : State) : runCommands [] s = some s := rfl

/-- The first command of a run, once what it answers is known. -/
theorem runCommands_cons {i : Instr} {is : List Instr} {s t : State} (h : exec i s = .next t) :
    runCommands (i :: is) s = runCommands is t := by
  simp [runCommands, h]

theorem runBus_cons (r : BusRequest) (rs : List BusRequest) (s : State) :
    runBus (r :: rs) s = runBus rs (busTransaction r s) := rfl

/-- The block commands and single-step commands as functions of STATE, from any state in which they succeed. -/
theorem exec_state_command {i : Instr} {s : State} (h : s.sboxOk = true)
    (he : firstError (commandChecks i s) = none) {b : Block} (hb : commandEffect i s = (s.writeState b, .none)) :
    exec i s = .next { s with state := b, err := .none, done := true, seq := .idle } := by
  rw [exec_runs h he, hb]
  rfl

end Sys2Proof.Machine
end

