-- ==== Sys2Proof/Laws/Sequencer.lean ====
section
/-! SUPPORT. A step, event by event, and what reset leaves in BUF. -/

namespace Sys2Proof.Machine

/-- With nothing scheduled a step is the sequencer's turn. -/
theorem step_of_nil {s : State} (h : s.inputs = []) : step s = sequencerTurn s := by
  simp [step, nextEvent, h]

/-- A step performs the first scheduled event, in the state without it. -/
theorem step_of_cons {s : State} {i : Input} {rest : List Input} (h : s.inputs = i :: rest) :
    step s = performInput i { s with inputs := rest } := by
  simp [step, nextEvent, h]

/-- Every running command, legal or not, answers a next state. -/
theorem runWord_next (w : Word) (s : State) : ∃ t, runWord w s = .next t := by
  unfold runWord
  split
  · rw [exec_eq]
    exact runCommand_next ..
  · exact runCommand_next ..

/-- The bytes of an abandoned command keep the canonical form. -/
theorem wf_landBytes {old new : Memory} {l : List Nat} (h : old.wf) : (landBytes old new l).wf := by
  induction l generalizing old with
  | nil => exact h
  | cons i l ih => exact ih (Memory.wf_write h)

/-- A byte after an abandoned command: the new value if it landed, the old one if not. -/
theorem read_landBytes {old new : Memory} {l : List Nat} (h : old.wf) (i : Nat) :
    (landBytes old new l).read i = if i ∈ l then new.read i else old.read i := by
  induction l generalizing old with
  | nil => simp [landBytes]
  | cons j l ih =>
    rw [landBytes, ih (Memory.wf_write h)]
    by_cases hi : i = j
    · subst hi
      simp [Memory.read_write_self h]
    · simp [hi, Memory.read_write_ne hi]

/-- The positions listed after an abandoned command stay below a bound that holds both before and after it. -/
theorem inside_landBytes {old new : Memory} {l : List Nat} {hi : Nat} (ho : ∀ c ∈ old, c.1 < hi)
    (hn : ∀ c ∈ new, c.1 < hi) : ∀ c ∈ landBytes old new l, c.1 < hi := by
  induction l generalizing old with
  | nil => exact ho
  | cons i l ih =>
    refine ih fun c hc => ?_
    rcases Memory.mem_write hc with hc | ⟨rfl, hne⟩
    · exact ho c hc
    · by_contra hle
      exact hne (Memory.read_of_not_mem fun d hd h => hle (h ▸ hn d hd))

end Sys2Proof.Machine
end

