-- ==== Sys2Proof/Tests/Slice0.lean ====
section
/-! SUPPORT. Tests: ill-formed commands, command words written out from the encoding, single steps against the vectors of spec/95_test_vectors.md, and for every statement with hypotheses a state that meets them. -/

namespace Sys2Proof.Tests

set_option Elab.async false

open Sys2Proof Sys2Proof.Machine

/-! ## Ill-formed commands (spec/30_encoding.md R91) -/

theorem test_round_10_is_well_formed : (Instr.addRoundKey 10).wf = true := by decide
theorem test_round_11_is_ill_formed : (Instr.addRoundKey 11).wf = false := by decide
theorem test_round_15_is_ill_formed : (Instr.addRoundKey 15).wf = false := by decide
theorem test_assembler_refuses_round_11 : (Statement.cmd (.addRoundKey 11)).expand = none := by decide

/-! ## Command words, RES, K and OP written out bit by bit (spec/30_encoding.md R90, R92, R93) -/

theorem test_decode_gf_add : decode 0b00000000000000000000_0000_00000001#32 = .ok .gfAdd := by decide
theorem test_decode_gf_mul : decode 0b00000000000000000000_0000_00000010#32 = .ok .gfMul := by decide
theorem test_decode_sub_bytes : decode 0b00000000000000000000_0000_00010000#32 = .ok .subBytes := by decide
theorem test_decode_inv_sub_bytes : decode 0b00000000000000000000_0000_00010001#32 = .ok .invSubBytes := by decide
theorem test_decode_shift_rows : decode 0b00000000000000000000_0000_00010010#32 = .ok .shiftRows := by decide
theorem test_decode_inv_shift_rows : decode 0b00000000000000000000_0000_00010011#32 = .ok .invShiftRows := by decide
theorem test_decode_mix_columns : decode 0b00000000000000000000_0000_00010100#32 = .ok .mixColumns := by decide
theorem test_decode_inv_mix_columns : decode 0b00000000000000000000_0000_00010101#32 = .ok .invMixColumns := by decide
theorem test_decode_expand_key : decode 0b00000000000000000000_0000_00100000#32 = .ok .expandKey := by decide
theorem test_decode_encrypt_block : decode 0b00000000000000000000_0000_00110000#32 = .ok .encryptBlock := by decide
theorem test_decode_decrypt_block : decode 0b00000000000000000000_0000_00110001#32 = .ok .decryptBlock := by decide
theorem test_decode_ctr_apply : decode 0b00000000000000000000_0000_01000000#32 = .ok .ctrApply := by decide
theorem test_decode_cbc_mac : decode 0b00000000000000000000_0000_01000001#32 = .ok .cbcMac := by decide
theorem test_decode_seal : decode 0b00000000000000000000_0000_01010000#32 = .ok .sealMsg := by decide
theorem test_decode_open : decode 0b00000000000000000000_0000_01010001#32 = .ok .openMsg := by decide
theorem test_decode_add_round_key_0 : decode 0b00000000000000000000_0000_00010110#32 = .ok (.addRoundKey 0) := by decide
theorem test_decode_add_round_key_10 : decode 0b00000000000000000000_1010_00010110#32 = .ok (.addRoundKey 10) := by decide
theorem test_illegal_word_0 : decode 0b00000000000000000000_0000_00000000#32 = .error .noSuchOperation := by decide
theorem test_illegal_op_17 : decode 0b00000000000000000000_0000_00010111#32 = .error .noSuchOperation := by decide
theorem test_illegal_round_11 : decode 0b00000000000000000000_1011_00010110#32 = .error .roundOutOfRange := by decide
theorem test_illegal_reserved_bit_12 : decode 0b00000000000000000001_0000_00010110#32 = .error .reservedBits := by decide
theorem test_illegal_round_on_encrypt : decode 0b00000000000000000000_0001_00110000#32 = .error .roundNotAllowed := by decide
theorem test_illegal_reserved_bit_31 : decode 0b10000000000000000000_0000_00100000#32 = .error .reservedBits := by decide
theorem test_table_word : decodeTableWord 32 0x00000A16 = some (.addRoundKey 10) := by decide
theorem test_table_word_illegal : decodeTableWord 32 0x00000B16 = none := by decide

/-! ## States and helpers -/

/-- An idle machine after a passed self-check, nothing loaded. -/
def ready : State := { State.reset with seq := .idle, sboxOk := true }

/-- `ready` with a valid round-key file: the expansion of the all-zero KEY. -/
def expanded : State := { ready with rk := expand Rom.standard Block.zero, rkValid := true }

/-- `ready` with LEN = n and the string bs at the start of BUF. -/
def holding (n : Word) (bs : List Byte) : State := { ready with len := n, buf := Memory.writeBytes [] 0 bs }

/-- `ready` with the 64-bit counter at its top value, 2^64 - 1. -/
def atTop : State := { ready with ctrLo := 0xFFFFFFFF, ctrHi := 0xFFFFFFFF }

/-- `ready` with command word w running. -/
def running (w : Word) : State := { ready with seq := .run w }

/-- A part with malformed tables. -/
def brokenRom : Rom := ⟨Vector.replicate 16 (Vector.replicate 16 0), Vector.replicate 16 (Vector.replicate 16 0)⟩

/-- The outcome is a next state with property p. -/
def lands (o : Host.Outcome State Fault Refusal) (p : State → Bool) : Bool :=
  match o with
  | .next t => p t
  | .fault _ => false
  | .refused _ => false

/-- The test key of spec/95_test_vectors.md. -/
def testKey : Block := #v[0x2b, 0x7e, 0x15, 0x16, 0x28, 0xae, 0xd2, 0xa6, 0xab, 0xf7, 0x15, 0x88, 0x09, 0xcf, 0x4f, 0x3c]

/-! ## Single steps; the expected values are those of spec/95_test_vectors.md section 2 -/

/-- Section 2.1. -/
theorem test_gf_add :
    lands (exec .gfAdd { ready with gfA := 0x57, gfB := 0x83 }) (fun t => t.gfP == 0xd4 && t.gfA == 0x57 && t.done) = true := by decide +kernel

/-- Section 2.1; the GF word is that of 10_state.md R29. -/
theorem test_gf_mul :
    lands (exec .gfMul { ready with gfA := 0x57, gfB := 0x83 }) (fun t => t.gfP == 0xc1 && t.gfWord == 0x00C18357) = true := by decide +kernel

/-- Section 2.1. -/
theorem test_gf_mul_one_reduction :
    lands (exec .gfMul { ready with gfA := 0x80, gfB := 0x02 }) (fun t => t.gfP == 0x1b) = true := by decide +kernel

/-- Section 2.2. -/
theorem test_sub_bytes :
    lands (exec .subBytes { ready with state := #v[0x19, 0x3d, 0xe3, 0xbe, 0xa0, 0xf4, 0xe2, 0x2b, 0x9a, 0xc6, 0x8d, 0x2a, 0xe9, 0xf8, 0x48, 0x08] }) (fun t => t.state ==
      #v[0xd4, 0x27, 0x11, 0xae, 0xe0, 0xbf, 0x98, 0xf1, 0xb8, 0xb4, 0x5d, 0xe5, 0x1e, 0x41, 0x52, 0x30]) = true := by decide +kernel

/-- Section 2.2. -/
theorem test_inv_sub_bytes :
    lands (exec .invSubBytes { ready with state := #v[0xd4, 0x27, 0x11, 0xae, 0xe0, 0xbf, 0x98, 0xf1, 0xb8, 0xb4, 0x5d, 0xe5, 0x1e, 0x41, 0x52, 0x30] }) (fun t => t.state ==
      #v[0x19, 0x3d, 0xe3, 0xbe, 0xa0, 0xf4, 0xe2, 0x2b, 0x9a, 0xc6, 0x8d, 0x2a, 0xe9, 0xf8, 0x48, 0x08]) = true := by decide +kernel

/-- Section 2.2. -/
theorem test_shift_rows :
    lands (exec .shiftRows { ready with state := #v[0x00, 0x01, 0x02, 0x03, 0x04, 0x05, 0x06, 0x07, 0x08, 0x09, 0x0a, 0x0b, 0x0c, 0x0d, 0x0e, 0x0f] }) (fun t => t.state ==
      #v[0x00, 0x05, 0x0a, 0x0f, 0x04, 0x09, 0x0e, 0x03, 0x08, 0x0d, 0x02, 0x07, 0x0c, 0x01, 0x06, 0x0b]) = true := by decide +kernel

/-- Section 2.2. -/
theorem test_inv_shift_rows :
    lands (exec .invShiftRows { ready with state := #v[0x00, 0x01, 0x02, 0x03, 0x04, 0x05, 0x06, 0x07, 0x08, 0x09, 0x0a, 0x0b, 0x0c, 0x0d, 0x0e, 0x0f] }) (fun t => t.state ==
      #v[0x00, 0x0d, 0x0a, 0x07, 0x04, 0x01, 0x0e, 0x0b, 0x08, 0x05, 0x02, 0x0f, 0x0c, 0x09, 0x06, 0x03]) = true := by decide +kernel

/-- Section 2.2. -/
theorem test_mix_columns :
    lands (exec .mixColumns { ready with state := #v[0xdb, 0x13, 0x53, 0x45, 0xf2, 0x0a, 0x22, 0x5c, 0x01, 0x01, 0x01, 0x01, 0xc6, 0xc6, 0xc6, 0xc6] }) (fun t => t.state ==
      #v[0x8e, 0x4d, 0xa1, 0xbc, 0x9f, 0xdc, 0x58, 0x9d, 0x01, 0x01, 0x01, 0x01, 0xc6, 0xc6, 0xc6, 0xc6]) = true := by decide +kernel

/-- Section 2.2. -/
theorem test_inv_mix_columns :
    lands (exec .invMixColumns { ready with state := #v[0x8e, 0x4d, 0xa1, 0xbc, 0x9f, 0xdc, 0x58, 0x9d, 0x01, 0x01, 0x01, 0x01, 0xc6, 0xc6, 0xc6, 0xc6] }) (fun t => t.state ==
      #v[0xdb, 0x13, 0x53, 0x45, 0xf2, 0x0a, 0x22, 0x5c, 0x01, 0x01, 0x01, 0x01, 0xc6, 0xc6, 0xc6, 0xc6]) = true := by decide +kernel

/-- Section 2.3. -/
theorem test_expand_key :
    lands (exec .expandKey { ready with key := testKey }) (fun t => t.rkValid && t.rk[1] == #v[0xa0, 0xfa, 0xfe, 0x17, 0x88, 0x54, 0x2c, 0xb1, 0x23, 0xa3, 0x39, 0x39, 0x2a, 0x6c, 0x76, 0x05] &&
      t.rk[10] == #v[0xd0, 0x14, 0xf9, 0xa8, 0xc9, 0xee, 0x25, 0x89, 0xe1, 0x3f, 0x0c, 0xc8, 0xb6, 0x63, 0x0c, 0xa6]) = true := by decide +kernel

/-- Section 2.2: ADD_ROUND_KEY 1 under the test key. -/
theorem test_add_round_key :
    lands (exec (.addRoundKey 1) { ready with
      rk := expand Rom.standard testKey, rkValid := true
      state := #v[0x04, 0x66, 0x81, 0xe5, 0xe0, 0xcb, 0x19, 0x9a, 0x48, 0xf8, 0xd3, 0x7a, 0x28, 0x06, 0x26, 0x4c] })
      (fun t => t.state == #v[0xa4, 0x9c, 0x7f, 0xf2, 0x68, 0x9f, 0x35, 0x2b, 0x6b, 0x5b, 0xea, 0x43, 0x02, 0x6a, 0x50, 0x49]) = true := by
  decide +kernel

/-- Section 2.2. -/
theorem test_add_round_key_not_expanded :
    lands (exec (.addRoundKey 1) ready) (fun t => t.err == .keyNotExpanded && t.state == Block.zero) = true := by decide +kernel

/-- Section 1, S1: the known answer. -/
theorem test_encrypt_block :
    lands (exec .encryptBlock { ready with
      rk := expand Rom.standard testKey, rkValid := true
      state := #v[0x6b, 0xc1, 0xbe, 0xe2, 0x2e, 0x40, 0x9f, 0x96, 0xe9, 0x3d, 0x7e, 0x11, 0x73, 0x93, 0x17, 0x2a] })
      (fun t => t.state == #v[0x3a, 0xd7, 0x7b, 0xb4, 0x0d, 0x7a, 0x36, 0x60, 0xa8, 0x9e, 0xca, 0xf3, 0x24, 0x66, 0xef, 0x97]) = true := by
  decide +kernel

/-- Section 2.4. -/
theorem test_decrypt_block :
    lands (exec .decryptBlock { ready with
      rk := expand Rom.standard testKey, rkValid := true
      state := #v[0x3a, 0xd7, 0x7b, 0xb4, 0x0d, 0x7a, 0x36, 0x60, 0xa8, 0x9e, 0xca, 0xf3, 0x24, 0x66, 0xef, 0x97] })
      (fun t => t.state == #v[0x6b, 0xc1, 0xbe, 0xe2, 0x2e, 0x40, 0x9f, 0x96, 0xe9, 0x3d, 0x7e, 0x11, 0x73, 0x93, 0x17, 0x2a]) = true := by
  decide +kernel

/-- Section 2.5: the largest counter, one block. -/
theorem test_ctr_apply :
    lands (exec .ctrApply { holding 16 [] with
      rk := expand Rom.standard testKey, rkValid := true, ctrLo := 0xFFFFFFFF, ctrHi := 0xFFFFFFFF })
      (fun t => t.len == 16 && t.buf.readBytes 0 16 ==
        [0xef, 0x87, 0x37, 0xb7, 0x83, 0xc4, 0xfa, 0x88, 0xe6, 0x87, 0xee, 0x94, 0x67, 0x07, 0x3f, 0x6e]) = true := by
  decide +kernel

/-- 44_modes.md R203: the top counter with two blocks. -/
theorem test_ctr_apply_overflow :
    lands (exec .ctrApply { atTop with rkValid := true, len := 17 }) (fun t => t.err == .counterOverflow && t.len == 17) = true := by decide +kernel

/-- Section 2.6: one block. -/
theorem test_cbc_mac :
    lands (exec .cbcMac { holding 16 [0x6b, 0xc1, 0xbe, 0xe2, 0x2e, 0x40, 0x9f, 0x96, 0xe9, 0x3d, 0x7e, 0x11, 0x73, 0x93, 0x17, 0x2a] with
      rk := expand Rom.standard testKey, rkValid := true })
      (fun t => t.len == 16 && t.tag == #v[0x3a, 0xd7, 0x7b, 0xb4, 0x0d, 0x7a, 0x36, 0x60, 0xa8, 0x9e, 0xca, 0xf3, 0x24, 0x66, 0xef, 0x97]) = true := by
  decide +kernel

/-- Section 2.6. -/
theorem test_cbc_mac_length :
    lands (exec .cbcMac { ready with rkValid := true, len := 20 }) (fun t => t.err == .invalidMacInputLength) = true := by decide +kernel

/-- P3 of section 3: SEAL of one block. -/
theorem test_seal :
    lands (exec .sealMsg { holding 16 [0x6b, 0xc1, 0xbe, 0xe2, 0x2e, 0x40, 0x9f, 0x96, 0xe9, 0x3d, 0x7e, 0x11, 0x73, 0x93, 0x17, 0x2a] with key := testKey })
      (fun t => t.len == 32 && t.rkValid && t.buf.readBytes 0 32 ==
        [0x16, 0x36, 0xd5, 0xee, 0x34, 0xf8, 0x06, 0x25, 0xd7, 0x7f, 0x8e, 0x56, 0xca, 0x88, 0x43, 0x45,
         0x28, 0x1b, 0x8b, 0x17, 0xca, 0x0b, 0xc0, 0x61, 0xcf, 0x69, 0xfa, 0x46, 0x45, 0xb0, 0x0f, 0x8d]) = true := by
  decide +kernel

/-- Section 2.7: LEN = BUF_BYTES - 15. -/
theorem test_seal_too_long :
    lands (exec .sealMsg { ready with len := 4081 }) (fun t => t.err == .lengthOutOfRange && t.len == 4081 && !t.rkValid) = true := by decide +kernel

/-- P3 of section 3: OPEN of that string. -/
theorem test_open :
    lands (exec .openMsg { holding 32
      ([0x16, 0x36, 0xd5, 0xee, 0x34, 0xf8, 0x06, 0x25, 0xd7, 0x7f, 0x8e, 0x56, 0xca, 0x88, 0x43, 0x45] ++
       [0x28, 0x1b, 0x8b, 0x17, 0xca, 0x0b, 0xc0, 0x61, 0xcf, 0x69, 0xfa, 0x46, 0x45, 0xb0, 0x0f, 0x8d]) with key := testKey })
      (fun t => t.err == .none && t.len == 16 && t.tag == Block.zero && t.buf.readBytes 0 16 ==
        [0x6b, 0xc1, 0xbe, 0xe2, 0x2e, 0x40, 0x9f, 0x96, 0xe9, 0x3d, 0x7e, 0x11, 0x73, 0x93, 0x17, 0x2a]) = true := by
  decide +kernel

/-- Section 2.7: LEN = 16 with a non-zero byte. -/
theorem test_open_tampered :
    lands (exec .openMsg (holding 16 [0x01])) (fun t => t.err == .tamperedCiphertext && t.len == 16 && t.buf.read 0 == 0x01 && t.rkValid) = true := by decide +kernel

/-! ## The machine around the commands -/

/-- Section 2.10: STATUS during the self-check. -/
theorem test_status_after_reset : (State.reset.busRead 0x0008) = ⟨0x00000001, false⟩ := by decide

/-- Section 2.10: STATUS after it. -/
theorem test_status_after_self_check :
    lands (step State.reset) (fun t => t.busRead 0x0008 == ⟨0x00000010, false⟩) = true := by decide +kernel

/-- 60_exceptions.md R273, R301: a part with malformed tables. -/
theorem test_broken_tables :
    lands (step { State.reset with rom := brokenRom }) (fun t => !t.sboxOk && t.err == .sboxInitFailure && !t.done) = true := by
  decide +kernel

/-- Section 2.9: a KEY write. -/
theorem test_key_write : (expanded.busWrite 0x0020 0x16157e2b).key[0] = 0x2b ∧
    (expanded.busWrite 0x0020 0x16157e2b).key[3] = 0x16 ∧ (expanded.busWrite 0x0020 0x16157e2b).rkValid = false := by
  decide

/-- Section 2.3: the bus word at 0x0110 under the test key. -/
theorem test_rk_read : (State.busRead { ready with rk := expand Rom.standard testKey, rkValid := true } 0x0110) =
    ⟨0x17FEFAA0, false⟩ := by decide +kernel

/-- Section 2.9: GF write, misaligned and unmapped reads. -/
theorem test_gf_write : (ready.busWrite 0x0014 0xFFFF8357).gfWord = 0x00008357 := by decide
theorem test_misaligned_read : ready.busRead 0x0002 = ⟨0, true⟩ := by decide
theorem test_unmapped_read : ready.busRead 0x01B0 = ⟨0, true⟩ := by decide
theorem test_read_past_buf : ready.busRead 0x2000 = ⟨0, true⟩ := by decide
theorem test_last_buf_word : ready.busRead 0x1FFC = ⟨0, false⟩ := by decide

/-- A BUF byte written with what an unwritten byte reads as leaves no entry. -/
theorem test_buf_canonical : (Memory.write (Memory.write [] 3 0x7f) 3 0) = [] := by decide

/-- withFetchWord runs exactly the word it is given, as the first command after reset. -/
theorem test_with_fetch_word :
    lands (step ((State.reset).withFetchWord 32 0x00000002)) (fun t => t.cmd == 2 && t.done && t.err == .none) = true := by
  decide +kernel

theorem test_with_fetch_word_illegal :
    lands (step ((State.reset).withFetchWord 32 0x00000B16)) (fun t => t.cmd == 0xB16 && t.err == .illegalCommand) = true := by
  decide +kernel

/-- P1 of section 3, its first lines: the encoding of a host program (30_encoding.md R103). -/
theorem test_program_encoding :
    (expandProgram [.expect 0x0000 0x41455331, .run (.addRoundKey 1), .ack]).map (List.map HostOp.transaction) =
      some [.r 0x0000, .w 0x000C 0x00000116, .pollStatus, .w 0x0008 0x00000002] := by decide
/-- 00_scope.md R10, 70_reset_and_hazards.md R320 and 30_encoding.md R102: a completion may come before any transaction, and a WAIT that is not early polls STATUS until one has come. -/
theorem test_completion_places :
    HostOp.inputs true 0 (.rd 0x0014) = [.sequencer, .bus (.read 0x0014)] ∧
    HostOp.inputs false 0 (.rd 0x0014) = [.bus (.read 0x0014)] ∧
    HostOp.inputs true 2 .wait = [.sequencer, .bus (.read 0x0008)] ∧
    HostOp.inputs false 1 .wait = [.bus (.read 0x0008), .sequencer, .bus (.read 0x0008)] := by decide

/-! ## For each statement with hypotheses, a state that meets them (named after the statement) -/

/-- The tables of the spec pass the check (41_round_transforms.md R131). -/
theorem test_standard_tables_pair : Rom.standard.pairOk = true := by decide +kernel

theorem test_broken_tables_do_not_pair : brokenRom.pairOk = false := by decide +kernel

theorem test_ready_sbox_ok : ready.sboxOk = true := rfl

theorem test_GfAddCommand : ready.sboxOk = true := rfl

theorem test_GfMulCommand : ready.sboxOk = true := rfl

theorem test_OpcodeMapIsTheDecoder : (0 : BitVec 4).toNat ≤ 10 ∧ (10 : BitVec 4).toNat ≤ 10 := by decide

/-- A wrong counter and a message that is not empty. -/
theorem test_TagCoversCiphertextOnly : Rom.standard.pairOk = true ∧ ([0x6b] : List Byte) ≠ [] ∧
    (2 ^ 64 - 1 : Nat) < 2 ^ 64 ∧ (0 : Nat) < 2 ^ 64 ∧ (2 ^ 64 - 1 : Nat) ≠ 0 :=
  ⟨test_standard_tables_pair, by decide, by decide, by decide, by decide⟩

/-- The rows of both matrices, as 41_round_transforms.md R134 and R135 print them. -/
theorem test_mix_matrices :
    ((List.range 4).map fun r => (List.range 4).map (matrixEntry mixRow r)) =
      [[2, 3, 1, 1], [1, 2, 3, 1], [1, 1, 2, 3], [3, 1, 1, 2]] ∧
    ((List.range 4).map fun r => (List.range 4).map (matrixEntry mixRowInv r)) =
      [[14, 11, 13, 9], [9, 14, 11, 13], [13, 9, 14, 11], [11, 13, 9, 14]] := by decide

theorem test_FieldLaws : (0x01 : Byte) ≠ 0 ∧ (0xFF : Byte) ≠ 0 := by decide

theorem test_SubBytesCommands : ready.sboxOk = true ∧ ready.rom.pairOk = true := ⟨rfl, test_standard_tables_pair⟩

theorem test_ShiftRowsCommands : ready.sboxOk = true := rfl

theorem test_MixColumnsCommands : ready.sboxOk = true := rfl

/-- A SEAL of the empty message succeeds in `ready`. -/
theorem test_ready_seals : ∃ t, exec .sealMsg ready = .next t ∧ t.err = .none ∧ t.len = 16 :=
  ⟨_, exec_runs rfl (by decide), rfl, rfl⟩

/-- An OPEN of 16 bytes that are not all zero ends with TAMPERED_CIPHERTEXT. -/
theorem test_tampered_open : ∃ t, exec .openMsg (holding 16 [0x01]) = .next t ∧ t.err = .tamperedCiphertext := by
  have h : openString (holding 16 [0x01]).rom (holding 16 [0x01]).message (holding 16 [0x01]).key
      (holding 16 [0x01]).counter = none := by
    rw [openString_eq _ _ _ _ 0 (by simp; rfl), if_neg]
    decide
  exact ⟨_, exec_runs rfl (by decide), by rw [commandEffect_openMsg_tampered h]; rfl⟩

/-- `ready` keeps the invariant. -/
theorem test_ready_meets_inv : Inv ready where
  bufCanonical := by decide
  bufInside := by decide
  roundKeysFresh := by decide
  sboxOkIsVerdict := test_standard_tables_pair ▸ rfl
  runningIsAccepted := by intro w h; cases h
  failureStays := by intro h; cases test_standard_tables_pair.symm.trans h
  selfCheckClean := by intro h; cases h

/-- One word for each clause of R94, at the edge of its range, and a state in which it runs. -/
theorem test_IllegalWordsOnlyComplete :
    (∀ w ∈ ([0x00001001, 0x80000020, 0x00000B16, 0x00000F16, 0x00000101, 0x00000130, 0x00000000, 0x00000003, 0x000000FF] :
      List Word), ∃ e, decode w = .error e) ∧ ready.sboxOk = true := by
  refine ⟨?_, rfl⟩
  simp only [List.mem_cons, List.not_mem_nil, or_false]
  rintro w (rfl | rfl | rfl | rfl | rfl | rfl | rfl | rfl | rfl)
  · exact ⟨.reservedBits, by decide⟩
  · exact ⟨.reservedBits, by decide⟩
  · exact ⟨.roundOutOfRange, by decide⟩
  · exact ⟨.roundOutOfRange, by decide⟩
  · exact ⟨.roundNotAllowed, by decide⟩
  · exact ⟨.roundNotAllowed, by decide⟩
  · exact ⟨.noSuchOperation, by decide⟩
  · exact ⟨.noSuchOperation, by decide⟩
  · exact ⟨.noSuchOperation, by decide⟩

theorem test_CmdStatementIsOneWrite : (Instr.addRoundKey 10).wf = true ∧ (Instr.addRoundKey 11).wf = false ∧
    ∀ k, Instr.gfAdd ≠ .addRoundKey k := by
  refine ⟨by decide, by decide, ?_⟩
  intro k h
  cases h

theorem test_WrbLoadsTheKey : expanded.busy = false := rfl

/-- A running command with nothing scheduled, and with the sequencer's turn scheduled. -/
theorem test_StepRunsDecodedCommand : ∃ s u : State, s.seq = .run 0x00000A16 ∧ s.inputs = [] ∧
    u.seq = .run 0x00000A16 ∧ u.inputs = [.sequencer] ∧ decode 0x00000A16 = .ok (.addRoundKey 10) :=
  ⟨running 0x00000A16, { running 0x00000A16 with inputs := [.sequencer] },
    rfl, rfl, rfl, rfl, by decide⟩

/-- A state for each kind of event. -/
theorem test_StepPerformsTheNextEvent :
    (∃ s : State, s.inputs = .bus (.read 0) :: []) ∧ (∃ s : State, s.inputs = .reset ⟨[0], RoundKeys.zero⟩ :: []) ∧
    (∃ s : State, s.inputs = [] ∧ s.seq = .selftest) ∧ (∃ s : State, s.inputs = [] ∧ s.seq = .idle) ∧
    (∃ s : State, s.inputs = [] ∧ s.seq = .run 0 ∧ ∃ e, decode 0 = .error e) ∧
    (∃ s : State, s.inputs = [.sequencer] ∧ s.seq = .selftest) ∧ (∃ s : State, s.inputs = [.sequencer] ∧ s.seq = .idle) ∧
    ∃ s : State, s.inputs = [.sequencer] ∧ s.seq = .run 0 ∧ ∃ e, decode 0 = .error e :=
  ⟨⟨{ ready with inputs := [.bus (.read 0)] }, rfl⟩, ⟨{ ready with inputs := [.reset ⟨[0], RoundKeys.zero⟩] }, rfl⟩,
    ⟨State.reset, rfl, rfl⟩, ⟨ready, rfl, rfl⟩, ⟨running 0, rfl, rfl, .noSuchOperation, by decide⟩,
    ⟨{ State.reset with inputs := [.sequencer] }, rfl, rfl⟩, ⟨{ ready with inputs := [.sequencer] }, rfl, rfl⟩,
    ⟨{ running 0 with inputs := [.sequencer] }, rfl, rfl, .noSuchOperation, by decide⟩⟩

theorem test_CmdWriteIsAcceptedWhenIdle : ready.busy = false ∧ State.reset.busy = true ∧
    (running 0x50).busy = true := by decide

theorem test_CompletionBookkeeping : (∃ t, exec .sealMsg ready = .next t) ∧ Instr.sealMsg.wf = true :=
  ⟨⟨_, exec_runs rfl (by decide)⟩, rfl⟩

/-- A command that fails a check, an illegal word, and an OPEN that fails in its body. -/
theorem test_ErrorsAreAllOrNothing :
    (∃ t, runWord 0x30 ready = .next t ∧ t.err ≠ .none ∧ t.err ≠ .tamperedCiphertext) ∧
    (∃ t, runWord 0 ready = .next t ∧ t.err ≠ .none ∧ t.err ≠ .tamperedCiphertext) ∧
    (∃ t, runWord 0x51 (holding 16 [0x01]) = .next t ∧ t.err = .tamperedCiphertext) ∧
    ∃ s t : State, Inv s ∧ s.seq = .run 0x30 ∧ runWord 0x30 s = .next t ∧ t.err ≠ .none :=
  ⟨⟨_, exec_fails (i := .encryptBlock) (e := .keyNotExpanded) rfl (by decide), by decide, by decide⟩,
    ⟨_, runIllegal_eq ready, by decide, by decide⟩, test_tampered_open,
    { running 0x30 with cmd := 0x30 }, _,
    { bufCanonical := by decide
      bufInside := by decide
      roundKeysFresh := by decide
      sboxOkIsVerdict := test_standard_tables_pair ▸ rfl
      runningIsAccepted := by intro w h; cases h; exact ⟨rfl, rfl, rfl⟩
      failureStays := by intro h; cases test_standard_tables_pair.symm.trans h
      selfCheckClean := by intro h; cases h },
    rfl, exec_fails (i := .encryptBlock) (e := .keyNotExpanded) rfl (by decide), by decide⟩

/-- Failed tables: before the self-check, and after it with a command running. -/
theorem test_SboxFailureIsFatal :
    State.sboxOk { ready with rom := brokenRom, sboxOk := false } = false ∧ brokenRom.pairOk = false ∧
    ∃ s t : State, s.sboxOk = false ∧ s.seq ≠ .selftest ∧ step s = .next t :=
  ⟨rfl, test_broken_tables_do_not_pair, { ready with rom := brokenRom, sboxOk := false }, _, rfl, by decide, rfl⟩

theorem test_single_step_statements : ready.sboxOk = true ∧ ready.rom.pairOk = true := ⟨rfl, test_standard_tables_pair⟩

/-- The clauses of ADD_ROUND_KEY at the edges of k. -/
theorem test_AddRoundKeyCommand : ready.sboxOk = true ∧ ready.rkValid = false ∧ expanded.sboxOk = true ∧
    expanded.rkValid = true ∧ (0#4).toNat ≤ 10 ∧ (10#4).toNat ≤ 10 ∧ 11 ≤ (11#4).toNat ∧ 11 ≤ (15#4).toNat := by decide

theorem test_ExpandKeyCommand : ready.sboxOk = true ∧ (∃ t, exec .sealMsg ready = .next t) ∧ ready.rkValid = false ∧
    expanded.rkValid = true := ⟨rfl, ⟨_, exec_runs rfl (by decide)⟩, rfl, rfl⟩

theorem test_TransformsAreInverse : Rom.standard.pairOk = true := test_standard_tables_pair

/-- The words of a schedule as a function on all numbers. -/
theorem test_KeyScheduleRecurrence : ∃ word : Nat → Nat → Byte, ∀ (i b : Nat) (_ : i < 44) (_ : b < 4),
    word i b = ((expand Rom.standard testKey)[i / 4])[4 * (i % 4) + b] :=
  ⟨fun i b => if h : i < 44 ∧ b < 4 then ((expand Rom.standard testKey)[i / 4])[4 * (i % 4) + b] else 0,
    fun i b hi hb => by simp [hi, hb]⟩

theorem test_BlockCommands : expanded.sboxOk = true ∧ expanded.rkValid = true ∧ ready.sboxOk = true ∧
    ready.rkValid = false ∧ expanded.rom.pairOk = true := ⟨rfl, rfl, rfl, rfl, test_standard_tables_pair⟩

theorem test_RoundByRoundEqualsOneShot : expanded.sboxOk = true ∧ expanded.rkValid = true := ⟨rfl, rfl⟩

theorem test_DecryptInvertsEncrypt : Rom.standard.pairOk = true := test_standard_tables_pair

theorem test_CounterBlockLayout : 0 < 2 ^ 64 ∧ 2 ^ 64 - 1 < 2 ^ 64 := by decide

/-- CTR_APPLY: no round keys; one byte too many; two blocks at the top counter; and its success for no block, one block at the top counter, and all of BUF. -/
theorem test_CtrApplyCommand :
    (ready.sboxOk = true ∧ ready.rkValid = false) ∧
    ((expanded.len.toNat + 15) / 16 = 0 ∧ expanded.counter = 0 ∧ expanded.buf.wf) ∧
    (∃ s : State, s.sboxOk = true ∧ s.rkValid = true ∧ s.len.toNat = s.bufBytes + 1) ∧
    (∃ s : State, s.sboxOk = true ∧ s.rkValid = true ∧ s.len.toNat ≤ s.bufBytes ∧ (s.len.toNat + 15) / 16 = 2 ∧
      s.counter + 2 - 1 > 2 ^ 64 - 1) ∧
    (∃ s : State, s.sboxOk = true ∧ s.rkValid = true ∧ s.len.toNat ≤ s.bufBytes ∧ (s.len.toNat + 15) / 16 = 1 ∧
      s.counter + 1 - 1 ≤ 2 ^ 64 - 1 ∧ s.buf.wf) ∧
    ∃ s : State, s.sboxOk = true ∧ s.rkValid = true ∧ s.len.toNat = s.bufBytes ∧
      s.counter + (s.len.toNat + 15) / 16 - 1 ≤ 2 ^ 64 - 1 ∧ s.buf.wf :=
  ⟨by decide, by decide, ⟨{ ready with rkValid := true, len := 4097 }, by decide⟩,
    ⟨{ atTop with rkValid := true, len := 17 }, by decide⟩, ⟨{ atTop with rkValid := true, len := 16 }, by decide⟩,
    ⟨{ ready with rkValid := true, len := 4096 }, by decide⟩⟩

theorem test_CtrApplyIsInvolution : (2 ^ 64 - 1) + blockCount ([0xAA] : List Byte).length - 1 ≤ 2 ^ 64 - 1 := by decide

theorem test_CbcMacChains : ([] : List Byte).length % 16 = 0 ∧ Block.zero.toList.length % 16 = 0 := by decide

/-- CBC_MAC: no round keys; one byte too many; a part of a block; all of BUF; nothing; and first, one block, and two zero blocks. -/
theorem test_CbcMacCommand :
    (∃ s : State, s.sboxOk = true ∧ s.rkValid = true ∧ s.len = 16) ∧
    (∃ s : State, s.sboxOk = true ∧ s.rkValid = true ∧ s.len = 32 ∧ ∀ n, n < 32 → s.buf.read n = 0) ∧
    (ready.sboxOk = true ∧ ready.rkValid = false) ∧
    (∃ s : State, s.sboxOk = true ∧ s.rkValid = true ∧ s.len.toNat = s.bufBytes + 1) ∧
    (∃ s : State, s.sboxOk = true ∧ s.rkValid = true ∧ s.len.toNat ≤ s.bufBytes ∧ s.len.toNat % 16 = 15) ∧
    (∃ s : State, s.sboxOk = true ∧ s.rkValid = true ∧ s.len.toNat = s.bufBytes ∧ s.len.toNat % 16 = 0) ∧
    (expanded.sboxOk = true ∧ expanded.rkValid = true ∧ expanded.len = 0) :=
  ⟨⟨{ ready with rkValid := true, len := 16 }, by decide⟩,
    ⟨{ ready with rkValid := true, len := 32 }, rfl, rfl, rfl, fun _ _ => rfl⟩,
    by decide, ⟨{ ready with rkValid := true, len := 4097 }, by decide⟩,
    ⟨{ ready with rkValid := true, len := 15 }, by decide⟩, ⟨{ ready with rkValid := true, len := 4096 }, by decide⟩,
    by decide⟩

theorem test_OneBlockChangesTheMac : Rom.standard.pairOk = true ∧ ([] : List Byte).length % 16 = 0 ∧
    Block.zero ≠ testKey := ⟨test_standard_tables_pair, by decide, by decide⟩

/-- SEAL: no room for the tag; two blocks at the top counter; and its success for no block, one block at the top counter, and as much as fits. -/
theorem test_SealCommand :
    (∃ s : State, s.sboxOk = true ∧ s.len.toNat = s.bufBytes - 16 + 1) ∧
    (∃ s : State, s.sboxOk = true ∧ s.len.toNat ≤ s.bufBytes - 16 ∧ (s.len.toNat + 15) / 16 = 2 ∧
      s.counter + 2 - 1 > 2 ^ 64 - 1) ∧
    (ready.sboxOk = true ∧ ready.len.toNat ≤ ready.bufBytes - 16 ∧ (ready.len.toNat + 15) / 16 = 0 ∧ ready.buf.wf) ∧
    (∃ s : State, s.sboxOk = true ∧ s.len.toNat ≤ s.bufBytes - 16 ∧ (s.len.toNat + 15) / 16 = 1 ∧
      s.counter + 1 - 1 ≤ 2 ^ 64 - 1 ∧ s.buf.wf) ∧
    ∃ s : State, s.sboxOk = true ∧ s.len.toNat = s.bufBytes - 16 ∧
      s.counter + (s.len.toNat + 15) / 16 - 1 ≤ 2 ^ 64 - 1 ∧ s.buf.wf :=
  ⟨⟨{ ready with len := 4081 }, by decide⟩, ⟨{ atTop with len := 17 }, by decide⟩, by decide,
    ⟨{ atTop with len := 16 }, by decide⟩, ⟨{ ready with len := 4080 }, by decide⟩⟩

/-- OPEN: one byte too many; shorter than a tag, and a part of a block; two blocks at the top counter; a wrong tag; and a right one. -/
theorem test_OpenCommand :
    (∃ s : State, s.sboxOk = true ∧ s.len.toNat = s.bufBytes + 1) ∧
    (∃ s : State, s.sboxOk = true ∧ s.len.toNat = 15) ∧
    (∃ s : State, s.sboxOk = true ∧ s.len.toNat = 17 ∧ (s.len.toNat - 16) % 16 ≠ 0) ∧
    (∃ s : State, s.sboxOk = true ∧ s.len.toNat = 48 ∧ (s.len.toNat - 16) / 16 = 2 ∧ s.counter + 2 - 1 > 2 ^ 64 - 1) ∧
    (∃ i : Fin 16, (cbcMac Rom.standard [] (expand Rom.standard (holding 16 [0x01]).key))[i] ≠
      (holding 16 [0x01]).buf.read (16 * 0 + i.val)) ∧
    (∀ i : Fin 16, (cbcMac Rom.standard [] (expand Rom.standard (holding 16 []).key))[i] =
      (holding 16 []).buf.read (16 * 0 + i.val)) ∧
    ((holding 16 []).len = 16 ∧ ∀ i, i < 16 → (holding 16 []).buf.read i = 0) ∧
    ((holding 16 [0x01]).len = 16 ∧ ∃ i, i < 16 ∧ (holding 16 [0x01]).buf.read i ≠ 0) :=
  ⟨⟨{ ready with len := 4097 }, by decide⟩, ⟨{ ready with len := 15 }, by decide⟩,
    ⟨{ ready with len := 17 }, by decide⟩, ⟨{ atTop with len := 48 }, by decide⟩, ⟨0, by decide⟩, by decide,
    ⟨rfl, fun _ _ => rfl⟩, rfl, 0, by decide, by decide⟩

theorem test_OpenUndoesSeal : ready.buf.wf ∧ ∃ t, exec .sealMsg ready = .next t ∧ t.err = .none :=
  ⟨by decide, _, exec_runs rfl (by decide), rfl⟩

/-- The last bit of the sealed empty message. -/
theorem test_FlippedBitIsRejected : ready.buf.wf ∧ ready.rom.pairOk = true ∧
    ∃ t v : State, exec .sealMsg ready = .next t ∧ t.err = .none ∧ 15 < t.len.toNat ∧
      v = { t with buf := t.buf.write 15 (t.buf.read 15 ^^^ (1 <<< (7 : Fin 8).val)) } :=
  ⟨by decide, test_standard_tables_pair, _, _, exec_runs rfl (by decide), rfl, by decide, rfl⟩

/-- An OPEN that runs, and ends with TAMPERED_CIPHERTEXT after a poll of STATUS, a CMD write and a BUF read. -/
theorem test_RejectedOpenReleasesNothing :
    ∃ s u t : State, s.seq = .run (encode .openMsg) ∧
      u = runBus [.read 0x0008, .write 0x000C 0x51, .read 0x1000] s ∧
      sequencerTurn u = .next t ∧ t.err = .tamperedCiphertext := by
  let s : State := { holding 16 [0x01] with seq := .run (encode .openMsg) }
  let u : State := runBus [.read 0x0008, .write 0x000C 0x51, .read 0x1000] s
  have h : openString u.rom u.message u.key u.counter = none := by
    rw [openString_eq _ _ _ _ 0 (by rw [State.length_message]; decide), if_neg]
    decide
  have he : exec .openMsg u = .next ((commandEffect .openMsg u).1.complete (commandEffect .openMsg u).2) :=
    exec_runs (by decide) (by decide)
  exact ⟨s, u, _, rfl, rfl, he, by rw [commandEffect_openMsg_tampered h]; rfl⟩

/-- The read addresses of that statement: a word of BUF while the OPEN runs. -/
theorem test_RejectedOpenReleasesNothing_read :
    (running (encode .openMsg)).target 0x1000 = some (.buf 0) ∧
    Target.readableWhileBusy (.buf 0) = false := by decide

theorem test_RunningCommandIsIsolated : (running 0x50).seq = .run 0x50 := rfl

/-- The frames CommandsLeaveHostSideAlone, CommandsWriteOnlyTheirResults and CommandsStoreOnlyTheirMessage: a command that stores, one that stores nothing, and OPEN. -/
theorem test_frames : (∃ t, exec .sealMsg ready = .next t) ∧ (∃ t, exec .gfMul ready = .next t) ∧
    (∃ t, exec .ctrApply expanded = .next t) ∧ ∃ t, exec .openMsg (holding 16 [0x01]) = .next t :=
  ⟨⟨_, exec_runs rfl (by decide)⟩, ⟨_, exec_runs rfl rfl⟩, ⟨_, exec_runs rfl (by decide)⟩,
    ⟨_, exec_runs rfl (by decide)⟩⟩

/-- Two states that agree on the operands of GF_MUL, and on those of SEAL, and differ elsewhere. -/
theorem test_CommandsReadOnlyTheirOperands :
    (SameOperands .gfMul ready atTop ∧ ready ≠ atTop ∧ (∃ t, exec .gfMul ready = .next t) ∧
      ∃ t, exec .gfMul atTop = .next t) ∧
    SameOperands .sealMsg ready { ready with gfA := 1 } ∧ ready.buf.wf ∧ (∃ t, exec .sealMsg ready = .next t) ∧
      ∃ t, exec .sealMsg { ready with gfA := 1 } = .next t :=
  ⟨⟨⟨rfl, rfl, rfl, rfl, rfl⟩, fun h => absurd (congrArg State.ctrLo h) (by decide), ⟨_, exec_runs rfl rfl⟩,
      ⟨_, exec_runs rfl rfl⟩⟩,
    ⟨rfl, rfl, rfl, ⟨rfl, fun _ _ => rfl⟩, ⟨rfl, rfl⟩, rfl⟩, by decide, ⟨_, exec_runs rfl (by decide)⟩,
    ⟨_, exec_runs rfl (by decide)⟩⟩

/-- RK_VALID rises at the completion of EXPAND_KEY and falls at a write to the first and to the last KEY word. -/
theorem test_RkValidChangesOnlyByRule :
    (∃ s t : State, step s = .next t ∧ s.rkValid = false ∧ t.rkValid = true) ∧
    (∃ s t : State, step s = .next t ∧ s.rkValid = true ∧ t.rkValid = false ∧ s.inputs = [.bus (.write 0x0020 0)]) ∧
    (∃ s t : State, step s = .next t ∧ s.rkValid = true ∧ t.rkValid = false ∧ s.inputs = [.bus (.write 0x002C 0)]) ∧
    ∃ s t : State, step s = .next t ∧ s.rkValid = true ∧ t.rkValid = false ∧ s.inputs = [.reset ⟨[], RoundKeys.zero⟩] :=
  ⟨⟨running 0x20, (running 0x20).deriveRoundKeys.complete .none,
      exec_runs (i := .expandKey) (s := running 0x20) rfl rfl, rfl, rfl⟩,
    ⟨{ expanded with inputs := [.bus (.write 0x0020 0)] }, _, rfl, rfl, by decide, rfl⟩,
    ⟨{ expanded with inputs := [.bus (.write 0x002C 0)] }, _, rfl, rfl, by decide, rfl⟩,
    ⟨{ expanded with inputs := [.reset ⟨[], RoundKeys.zero⟩] }, _, rfl, rfl, by decide, rfl⟩⟩

/-- The edges of the ranges of the address map, for BUF_BYTES = 4096: addresses that are errors, and addresses that are not. -/
theorem test_BusErrorsExactly :
    (([0x0002, 0x1001, 0x0050, 0x00FC, 0x01B0, 0x0FFC, 0x2000, 0xFFFC] : List Addr).all fun a =>
      a.toNat % 4 ≠ 0 ∨ (0x0050 ≤ a.toNat ∧ a.toNat < 0x0100) ∨ (0x01B0 ≤ a.toNat ∧ a.toNat < 0x1000) ∨
        0x1000 + ready.bufBytes ≤ a.toNat) = true ∧
    (([0x0000, 0x004C, 0x0100, 0x01AC, 0x1000, 0x1FFC] : List Addr).all fun a =>
      ¬(a.toNat % 4 ≠ 0 ∨ (0x0050 ≤ a.toNat ∧ a.toNat < 0x0100) ∨ (0x01B0 ≤ a.toNat ∧ a.toNat < 0x1000) ∨
        0x1000 + ready.bufBytes ≤ a.toNat)) = true := by decide +kernel

/-- BUSY during the self-check and during a command, and the edges of the mapped ranges. -/
theorem test_BusyWritesOnlySetOverrun : State.reset.busy = true ∧ (running 0x50).busy = true ∧
    (([0x0000, 0x000C, 0x004C, 0x0100, 0x01AC, 0x1000, 0x1FFC] : List Addr).all fun a =>
      a.toNat % 4 = 0 ∧ (a.toNat < 0x0050 ∨ (0x0100 ≤ a.toNat ∧ a.toNat < 0x01B0) ∨
        (0x1000 ≤ a.toNat ∧ a.toNat < 0x1000 + State.reset.bufBytes)) ∧ a.toNat ≠ 0x0004 ∧ a.toNat ≠ 0x0008) = true ∧
    (([0x000E, 0x0050, 0x00FC, 0x01B0, 0x0FFC, 0x2000] : List Addr).all fun a =>
      a.toNat % 4 ≠ 0 ∨ ¬(a.toNat < 0x0050 ∨ (0x0100 ≤ a.toNat ∧ a.toNat < 0x01B0) ∨
        (0x1000 ≤ a.toNat ∧ a.toNat < 0x1000 + State.reset.bufBytes))) = true := by
  decide +kernel

theorem test_BusyReadsAnswerZero : State.reset.busy = true ∧
    (([0x000C, 0x004C, 0x0100, 0x01AC, 0x1000, 0x1FFC] : List Addr).all fun a =>
      a.toNat % 4 = 0 ∧ ((0x000C ≤ a.toNat ∧ a.toNat < 0x0050) ∨ (0x0100 ≤ a.toNat ∧ a.toNat < 0x01B0) ∨
        (0x1000 ≤ a.toNat ∧ a.toNat < 0x1000 + State.reset.bufBytes))) = true ∧
    (([0x0000, 0x0004, 0x0008] : List Addr).all fun a => a.toNat % 4 = 0) = true := by decide +kernel

theorem test_WritableWordsReadBack : ready.busy = false ∧ ready.buf.wf ∧
    (([0x0004, 0x0010, 0x0014, 0x0018, 0x001C, 0x0030, 0x003C, 0x1000, 0x1FFC] : List Addr).all fun a => a.toNat % 4 = 0 ∧
      (a.toNat = 0x0004 ∨ a.toNat = 0x0014 ∨ a.toNat = 0x0010 ∨ (0x0018 ≤ a.toNat ∧ a.toNat < 0x0040) ∨
        (0x1000 ≤ a.toNat ∧ a.toNat < 0x1000 + ready.bufBytes))) = true := by decide +kernel

/-- The first and the last word of each range. -/
theorem test_IdleReadsInByteLanes : ready.busy = false ∧ (0x002C : Addr).toNat = 0x0020 + 4 * 3 ∧
    (0x003C : Addr).toNat = 0x0030 + 4 * 3 ∧ (0x0040 : Addr).toNat = 0x0040 + 4 * 0 ∧
    (0x004C : Addr).toNat = 0x0040 + 4 * 3 ∧ 4 * 1023 < ready.bufBytes ∧ (0x1FFC : Addr).toNat = 0x1000 + 4 * 1023 := by
  decide +kernel

theorem test_KeyWriteClearsRkValid : expanded.busy = false ∧
    (([0x0020, 0x002C] : List Addr).all fun a => a.toNat % 4 = 0 ∧ 0x0020 ≤ a.toNat ∧ a.toNat < 0x0030) = true := by
  decide +kernel

theorem test_ReadOnlyWordsIgnoreWrites : ready.busy = false ∧
    (([0x0000, 0x0040, 0x004C, 0x0100, 0x01AC] : List Addr).all fun a => a.toNat % 4 = 0 ∧
      (a.toNat = 0x0000 ∨ (0x0040 ≤ a.toNat ∧ a.toNat < 0x0050) ∨ (0x0100 ≤ a.toNat ∧ a.toNat < 0x01B0))) = true := by
  decide +kernel

theorem test_RoundKeysReadBack : ready.busy = false ∧ ready.rkValid = false ∧ expanded.busy = false ∧
    expanded.rkValid = true ∧ (0x01AC : Addr).toNat = 0x0100 + 16 * (10 : Fin 11).val + 4 * (3 : Fin 4).val := by
  decide +kernel

theorem test_InterruptIsALevel : (∃ t, exec .gfMul { ready with ie := true } = .next t) ∧
    (0x00000002 : Word).getLsbD 1 = true ∧ ready.busy = false := ⟨⟨_, exec_runs rfl rfl⟩, by decide, by decide⟩

/-- A running SEAL that a reset abandons, and a running ENCRYPT_BLOCK that would fail. -/
theorem test_ResetAbandonsTheCommand : (∀ w, ready.seq ≠ .run w) ∧
    ((running 0x50).seq = .run 0x50 ∧ (∃ t, runWord 0x50 (running 0x50) = .next t) ∧ (running 0x50).buf.wf) ∧
    (running 0x30).seq = .run 0x30 ∧ (running 0x30).buf.wf ∧
      ∃ t, runWord 0x30 (running 0x30) = .next t ∧ t.err ≠ .none :=
  ⟨fun w h => (by cases h), ⟨rfl, runWord_next _ _, by decide⟩, rfl, by decide, _,
    exec_fails (i := .encryptBlock) (e := .keyNotExpanded) rfl (by decide), by decide⟩

theorem test_SelfCheckReachesCleanEntry : State.reset.seq = .selftest ∧ State.reset.inputs = [] := ⟨rfl, rfl⟩

theorem test_EveryStepKeepsTheInvariant : Inv ready ∧ ∃ t, step ready = .next t := ⟨test_ready_meets_inv, _, rfl⟩

end Sys2Proof.Tests
end

/-! The bus slave port as the host sees it: which addresses are bus errors, and that traffic during a run does not reach the command. -/

namespace Sys2Proof.Machine

/-! ## Bus errors (spec/20_memory.md R62, R70, R71) -/

/-- The ranges of the address map hold no gaps: an aligned offset in one of them is mapped. -/
theorem mapOffset_mapped {b n : Nat} (h4 : n % 4 = 0)
    (h : n < 0x0050 ∨ (0x0100 ≤ n ∧ n < 0x01B0) ∨ (0x1000 ≤ n ∧ n < 0x1000 + b)) :
    ∃ t, mapOffset b n = some t := by
  have ranges : n < 0x0020 ∨ (0x0020 ≤ n ∧ n < 0x0030) ∨ (0x0030 ≤ n ∧ n < 0x0040) ∨
      (0x0040 ≤ n ∧ n < 0x0050) ∨ (0x0100 ≤ n ∧ n < 0x01B0) ∨ (0x1000 ≤ n ∧ n < 0x1000 + b) := by omega
  rcases ranges with hs | ⟨h1, h2⟩ | ⟨h1, h2⟩ | ⟨h1, h2⟩ | ⟨h1, h2⟩ | ⟨h1, h2⟩
  · rcases mapOffset_scalar (b := b) hs h4 with
      ⟨-, e⟩ | ⟨-, e⟩ | ⟨-, e⟩ | ⟨-, e⟩ | ⟨-, e⟩ | ⟨-, e⟩ | ⟨-, e⟩ | ⟨-, e⟩ <;> exact ⟨_, e⟩
  · exact ⟨_, mapOffset_key h1 h2⟩
  · exact ⟨_, mapOffset_state h1 h2⟩
  · exact ⟨_, mapOffset_tag h1 h2⟩
  · exact ⟨_, mapOffset_rk h1 h2⟩
  · exact ⟨_, mapOffset_buf h1 h2⟩

theorem State.target_of_misaligned (s : State) {a : Addr} (h : a.toNat % 4 ≠ 0) : s.target a = none := if_pos h

/-- A request reaches nothing exactly when its address is misaligned or in none of the ranges of the map. -/
theorem State.target_eq_none_iff (s : State) (a : Addr) :
    s.target a = none ↔
      a.toNat % 4 ≠ 0 ∨ (0x0050 ≤ a.toNat ∧ a.toNat < 0x0100) ∨ (0x01B0 ≤ a.toNat ∧ a.toNat < 0x1000) ∨
        0x1000 + s.bufBytes ≤ a.toNat := by
  by_cases h4 : a.toNat % 4 = 0
  · rw [s.target_of_aligned h4]
    constructor
    · intro hnone
      by_contra hbad
      obtain ⟨t, ht⟩ := mapOffset_mapped (b := s.bufBytes) h4 (by omega)
      simp [ht] at hnone
    · intro hbad
      exact mapOffset_hole (by omega)
  · simp [s.target_of_misaligned h4, h4]

theorem State.busRead_of_none {s : State} {a : Addr} (h : s.target a = none) : s.busRead a = .busError := by
  simp [State.busRead, h]

theorem State.busWrite_of_none {s : State} {a : Addr} (v : Word) (h : s.target a = none) : s.busWrite a v = s := by
  simp [State.busWrite, h]

theorem State.busWriteResponse_of_none {s : State} {a : Addr} (h : s.target a = none) :
    s.busWriteResponse a = .busError := by
  simp [State.busWriteResponse, h]

/-- A read that reaches a word answers without error, whether BUSY or not. -/
theorem State.busRead_err_of_some {s : State} {a : Addr} {t : Target} (h : s.target a = some t) :
    (s.busRead a).err = false := by
  simp only [State.busRead, h]
  split <;> rfl

theorem State.busWriteResponse_of_some {s : State} {a : Addr} {t : Target} (h : s.target a = some t) :
    s.busWriteResponse a = .ok 0 := by
  simp [State.busWriteResponse, h]

/-- Settles O46: a request is an error exactly when `State.target` gives it no word. -/
theorem busErrorsExactly : Obligations.BusErrorsExactly := by
  intro s a v bad hbad
  rw [← s.target_eq_none_iff a] at hbad
  rw [hbad]
  refine ⟨fun hnone => ⟨?_, ?_⟩, fun hsome => ?_⟩
  · rw [busTransaction, State.busRead_of_none hnone]
    rfl
  · rw [busTransaction, State.busWrite_of_none v hnone, State.busWriteResponse_of_none hnone]
    rfl
  · obtain ⟨t, ht⟩ := Option.ne_none_iff_exists'.mp hsome
    exact ⟨State.busRead_err_of_some ht, State.busWriteResponse_of_some ht⟩

/-! ## Traffic while a command runs (spec/20_memory.md R84) -/

/-- A state without what the host can change on the bus while BUSY = 1: `hideHostTraffic`, and DONE, which a STATUS write may clear and the completion sets again. -/
def hideBusyTraffic (s : State) : State := { hideHostTraffic s with done := false }

@[simp] theorem hideBusyTraffic_seq (s : State) : (hideBusyTraffic s).seq = s.seq := rfl

@[simp] theorem hideBusyTraffic_busy (s : State) : (hideBusyTraffic s).busy = s.busy := rfl

theorem hideBusyTraffic_respond (s : State) (r : Response) : hideBusyTraffic (s.respond r) = hideBusyTraffic s := rfl

/-- Only CTRL and STATUS take a write while BUSY = 1, and theirs is hidden. -/
theorem hideBusyTraffic_writeTarget (s : State) (v : Word) {t : Target} (h : t.writableWhileBusy = true) :
    hideBusyTraffic (s.writeTarget v t) = hideBusyTraffic s := by
  cases t with
  | ctrl => rfl
  | status => rfl
  | _ => cases h

theorem hideBusyTraffic_busWrite {s : State} (hb : s.busy = true) (a : Addr) (v : Word) :
    hideBusyTraffic (s.busWrite a v) = hideBusyTraffic s := by
  rcases s.busWrite_cases a v with ⟨-, e⟩ | ⟨t, -, ⟨-, -, e⟩ | ⟨hidle | hw, e⟩⟩
  · rw [e]
  · rw [e]
    rfl
  · simp [hb] at hidle
  · rw [e, hideBusyTraffic_writeTarget s v hw]

theorem hideBusyTraffic_busTransaction {s : State} (hb : s.busy = true) (r : BusRequest) :
    hideBusyTraffic (busTransaction r s) = hideBusyTraffic s := by
  cases r with
  | read a => rfl
  | write a v => rw [busTransaction, hideBusyTraffic_respond, hideBusyTraffic_busWrite hb]

/-- BUSY is visible in what is left of a state, since SEQ is. -/
theorem busy_of_hideBusyTraffic {s t : State} (h : hideBusyTraffic t = hideBusyTraffic s) : t.busy = s.busy :=
  (hideBusyTraffic_busy t).symm.trans ((congrArg State.busy h).trans (hideBusyTraffic_busy s))

/-- Any traffic on a busy machine, by induction on the transactions: BUSY stays 1, so each next one is hidden too. -/
theorem hideBusyTraffic_runBus {s : State} (hb : s.busy = true) (rs : List BusRequest) :
    hideBusyTraffic (runBus rs s) = hideBusyTraffic s := by
  induction rs generalizing s with
  | nil => rfl
  | cons r rs ih =>
    have hr := hideBusyTraffic_busTransaction hb r
    rw [runBus_cons, ih ((busy_of_hideBusyTraffic hr).trans hb), hr]

/-! A command neither reads nor writes what is hidden. -/

theorem commandChecks_hideBusyTraffic (i : Instr) (s : State) :
    commandChecks i (hideBusyTraffic s) = commandChecks i s := by
  cases i <;> rfl

theorem commandEffect_hideBusyTraffic (i : Instr) (s : State) :
    commandEffect i (hideBusyTraffic s) = (hideBusyTraffic (commandEffect i s).1, (commandEffect i s).2) := by
  cases i with
  | addRoundKey k =>
    by_cases h : k.toNat ≤ 10
    · rw [commandEffect_addRoundKey h, commandEffect_addRoundKey h]
      rfl
    · rw [commandEffect_addRoundKey_illegal h, commandEffect_addRoundKey_illegal h]
  | openMsg =>
    cases h : openString s.rom s.message s.key s.counter with
    | none =>
      rw [commandEffect_openMsg_tampered h, commandEffect_openMsg_tampered (s := hideBusyTraffic s) h]
      rfl
    | some pt =>
      rw [commandEffect_openMsg_verified h, commandEffect_openMsg_verified (s := hideBusyTraffic s) h]
      rfl
  | _ => rfl

/-- The completion sets DONE, so what is hidden after it is the host's traffic alone. -/
theorem complete_hideBusyTraffic (s : State) (e : ErrCode) :
    (hideBusyTraffic s).complete e = hideHostTraffic (s.complete e) := rfl

/-- A command from the state without the traffic completes in the completion without the traffic. -/
theorem exec_hideBusyTraffic {i : Instr} {s t : State} (h : exec i s = .next t) :
    exec i (hideBusyTraffic s) = .next (hideHostTraffic t) := by
  rw [exec_eq] at h ⊢
  rw [commandChecks_hideBusyTraffic]
  rcases runCommand_cases h with ⟨hs, rfl⟩ | ⟨hs, e, he, rfl⟩ | ⟨hs, he, rfl⟩
  · exact runCommand_sboxFailure hs
  · exact runCommand_fails hs he
  · rw [runCommand_runs (s := hideBusyTraffic s) hs he, commandEffect_hideBusyTraffic, complete_hideBusyTraffic]

theorem runIllegal_hideBusyTraffic {s t : State} (h : runIllegal s = .next t) :
    runIllegal (hideBusyTraffic s) = .next (hideHostTraffic t) := by
  rw [runIllegal_eq] at h ⊢
  cases h
  rfl

theorem runWord_hideBusyTraffic {w : Word} {s t : State} (h : runWord w s = .next t) :
    runWord w (hideBusyTraffic s) = .next (hideHostTraffic t) := by
  unfold runWord at h ⊢
  cases hd : decode w with
  | ok i =>
    rw [hd] at h
    exact exec_hideBusyTraffic h
  | error _ =>
    rw [hd] at h
    exact runIllegal_hideBusyTraffic h

theorem sequencerTurn_of_run {s : State} {w : Word} (h : s.seq = .run w) : sequencerTurn s = runWord w s := by
  simp [sequencerTurn, h]

theorem State.busy_of_run {s : State} {w : Word} (h : s.seq = .run w) : s.busy = true := by
  simp [State.busy, h]

/-- Settles O40: with and without the traffic the machine is the same state but for the traffic, and a completion from there is determined. -/
theorem runningCommandIsIsolated : Obligations.RunningCommandIsIsolated := by
  intro s w rs hseq
  have hide : hideBusyTraffic (runBus rs s) = hideBusyTraffic s := hideBusyTraffic_runBus (State.busy_of_run hseq) rs
  have hseq' : (runBus rs s).seq = .run w := by
    rw [← hideBusyTraffic_seq, hide, hideBusyTraffic_seq, hseq]
  obtain ⟨t, ht⟩ := runWord_next w s
  obtain ⟨u, hu⟩ := runWord_next w (runBus rs s)
  refine ⟨t, u, (sequencerTurn_of_run hseq).trans ht, (sequencerTurn_of_run hseq').trans hu, ?_⟩
  have ht' := runWord_hideBusyTraffic ht
  have hu' := runWord_hideBusyTraffic hu
  rw [hide, ht'] at hu'
  exact (Host.Outcome.next.inj hu').symm

end Sys2Proof.Machine

/-! Command words: a word is its three fields, the decoder as the inverse of `encode`, and the opcode map, the illegal words and the CMD statement from that. -/

namespace Sys2Proof

/-! ## The fields of a command word (spec/30_encoding.md R90) -/

theorem resField_append_kField_append_opField (w : Word) : (resField w ++ kField w) ++ opField w = w := by
  unfold resField kField opField
  rw [BitVec.extractLsb'_append_extractLsb'_eq_extractLsb' (show 12 = 8 + 4 from rfl),
    BitVec.extractLsb'_append_extractLsb'_eq_extractLsb' (show 8 = 0 + 8 from rfl)]
  exact BitVec.extractLsb'_eq_self

theorem word_ext_fields {w v : Word} (hres : resField w = resField v) (hk : kField w = kField v)
    (hop : opField w = opField v) : w = v := by
  rw [← resField_append_kField_append_opField w, ← resField_append_kField_append_opField v, hres, hk, hop]

/-- The laws of the fields, one per constructor, as one. -/
theorem encodeFields (i : Instr) : Laws.EncodeFields.Statement i := by
  cases i with
  | gfAdd => exact Laws.EncodeFields.gfAdd
  | gfMul => exact Laws.EncodeFields.gfMul
  | subBytes => exact Laws.EncodeFields.subBytes
  | invSubBytes => exact Laws.EncodeFields.invSubBytes
  | shiftRows => exact Laws.EncodeFields.shiftRows
  | invShiftRows => exact Laws.EncodeFields.invShiftRows
  | mixColumns => exact Laws.EncodeFields.mixColumns
  | invMixColumns => exact Laws.EncodeFields.invMixColumns
  | addRoundKey k => exact Laws.EncodeFields.addRoundKey k
  | expandKey => exact Laws.EncodeFields.expandKey
  | encryptBlock => exact Laws.EncodeFields.encryptBlock
  | decryptBlock => exact Laws.EncodeFields.decryptBlock
  | ctrApply => exact Laws.EncodeFields.ctrApply
  | cbcMac => exact Laws.EncodeFields.cbcMac
  | sealMsg => exact Laws.EncodeFields.sealMsg
  | openMsg => exact Laws.EncodeFields.openMsg

@[simp] theorem opField_encode (i : Instr) : opField (encode i) = opOf i := by
  obtain ⟨hop, -, -⟩ := encodeFields i
  exact hop

@[simp] theorem kField_encode (i : Instr) : kField (encode i) = kOf i := by
  obtain ⟨-, hk, -⟩ := encodeFields i
  exact hk

@[simp] theorem resField_encode (i : Instr) : resField (encode i) = 0 := by
  obtain ⟨-, -, hres⟩ := encodeFields i
  exact hres

/-- A word is a command's word when its fields are the command's. -/
theorem encode_eq_iff (i : Instr) (w : Word) :
    encode i = w ↔ resField w = 0 ∧ kField w = kOf i ∧ opField w = opOf i := by
  constructor
  · rintro rfl
    simp
  · rintro ⟨hres, hk, hop⟩
    exact word_ext_fields (by simp [hres]) (by simp [hk]) (by simp [hop])

/-- The word of ADD_ROUND_KEY k as R101 writes it. -/
theorem encode_addRoundKey (k : BitVec 4) : encode (.addRoundKey k) = 0x00000016 ||| (k.setWidth 32 <<< 8) := by
  revert k
  decide

/-! ## The decoder is the inverse of `encode` (spec/30_encoding.md R93) -/

theorem addRoundKey_or_kOf_eq_zero (i : Instr) : (∃ k, i = .addRoundKey k) ∨ (kOf i = 0 ∧ opOf i ≠ 0x16) := by
  cases i
  case addRoundKey k => exact .inl ⟨k, rfl⟩
  all_goals exact .inr (by decide)

theorem decodeOp_opOf {i : Instr} (h : opOf i ≠ 0x16) : decodeOp (opOf i) = .ok i := by
  cases i
  case addRoundKey => exact absurd rfl h
  all_goals rfl

/-- `decodeOp` has 15 branches that answer a command, each on the OP of that command. -/
theorem opOf_of_decodeOp {op : Byte} {i : Instr} (h : decodeOp op = .ok i) :
    opOf i = op ∧ kOf i = 0 ∧ i.wf = true := by
  unfold decodeOp at h
  split at h
  case h_16 => cases h
  all_goals
    cases h
    exact ⟨BitVec.eq_of_toNat_eq (Eq.symm ‹_›), rfl, rfl⟩

theorem decode_encode {i : Instr} (h : i.wf = true) : decode (encode i) = .ok i := by
  unfold decode
  rcases addRoundKey_or_kOf_eq_zero i with ⟨k, rfl⟩ | ⟨hk, hop⟩
  · simpa [opOf, kOf, Instr.wf] using h
  · rw [resField_encode, opField_encode, kField_encode, hk, if_neg (not_not.mpr rfl), if_neg hop,
      if_neg (not_not.mpr rfl), decodeOp_opOf hop]

theorem wf_and_encode_of_decode {w : Word} {i : Instr} (h : decode w = .ok i) : i.wf = true ∧ encode i = w := by
  rw [encode_eq_iff]
  unfold decode at h
  split_ifs at h with hres hop hround hk
  · cases h
    exact ⟨by simpa [Instr.wf] using hround, not_not.mp hres, rfl, hop⟩
  · obtain ⟨hopOf, hkOf, hwf⟩ := opOf_of_decodeOp h
    exact ⟨hwf, not_not.mp hres, (not_not.mp hk).trans hkOf.symm, hopOf.symm⟩

theorem decode_eq_ok_iff (w : Word) (i : Instr) : decode w = .ok i ↔ i.wf = true ∧ encode i = w := by
  constructor
  · exact wf_and_encode_of_decode
  · rintro ⟨hwf, rfl⟩
    exact decode_encode hwf

/-! ## The opcode map (spec/30_encoding.md R92) -/

/-- What a row other than ADD_ROUND_KEY's is: one word, that of its one command. -/
def OpcodeRow.IsSingle (r : OpcodeRow) : Prop :=
  r.mask = BitVec.allOnes 32 ∧ r.needsRound = false ∧ (r.command 0).wf = true ∧ encode (r.command 0) = r.pattern ∧
    ∀ k, r.command k = r.command 0

/-- What the row of ADD_ROUND_KEY is: K masked out of the word, and K <= 10. -/
def OpcodeRow.IsRound (r : OpcodeRow) : Prop :=
  r.mask = 0xFFFFF0FF ∧ r.needsRound = true ∧ r.pattern = 0x16 ∧ ∀ k, r.command k = .addRoundKey k

theorem isSingle_or_isRound {r : OpcodeRow} (h : r ∈ opcodeMap) : r.IsSingle ∨ r.IsRound := by
  revert r
  unfold OpcodeRow.IsSingle OpcodeRow.IsRound
  decide

/-- What the row of ADD_ROUND_KEY compares: its mask 0xFFFFF0FF keeps RES and OP and drops K. -/
theorem and_roundMask_eq_iff (w : Word) : w &&& 0xFFFFF0FF = 0x16 ↔ resField w = 0 ∧ opField w = 0x16 := by
  have hres : resField (w &&& 0xFFFFF0FF) = resField w :=
    BitVec.extractLsb'_and.trans BitVec.and_allOnes
  have hk : kField (w &&& 0xFFFFF0FF) = 0 :=
    BitVec.extractLsb'_and.trans BitVec.and_zero
  have hop : opField (w &&& 0xFFFFF0FF) = opField w :=
    BitVec.extractLsb'_and.trans BitVec.and_allOnes
  constructor
  · intro h
    rw [← hres, ← hop, h]
    decide
  · rintro ⟨hres', hop'⟩
    exact word_ext_fields (hres.trans hres') hk (hop.trans hop')

/-- A row selects exactly the words of its commands. -/
theorem selects_iff_decode {r : OpcodeRow} (h : r ∈ opcodeMap) (w : Word) :
    r.selects w = true ↔ decode w = .ok (r.command (kField w)) := by
  rw [decode_eq_ok_iff]
  rcases isSingle_or_isRound h with ⟨hmask, hround, hwf, hword, hcommand⟩ | ⟨hmask, hround, hpattern, hcommand⟩
  · simp only [OpcodeRow.selects, hmask, hround, hcommand (kField w), hwf, hword, BitVec.and_allOnes,
      decide_eq_true_eq, Bool.false_eq_true, false_implies, and_true, true_and]
    exact eq_comm
  · simp only [OpcodeRow.selects, hmask, hround, hpattern, hcommand, encode_eq_iff, Instr.wf, kOf, opOf,
      and_roundMask_eq_iff, decide_eq_true_eq, true_implies, true_and]
    exact and_comm

theorem exists_row_of_command (i : Instr) : ∃ r ∈ opcodeMap, r.command (kOf i) = i := by
  cases i
  case addRoundKey k =>
    revert k
    decide
  all_goals decide

theorem decode_eq_ok_iff_exists_row (w : Word) (i : Instr) :
    decode w = .ok i ↔ ∃ r ∈ opcodeMap, r.selects w = true ∧ r.command (kField w) = i := by
  constructor
  · intro h
    obtain ⟨r, hr, hcommand⟩ := exists_row_of_command i
    have hk : kField w = kOf i := by
      rw [← (wf_and_encode_of_decode h).2, kField_encode]
    rw [← hk] at hcommand
    exact ⟨r, hr, (selects_iff_decode hr w).mpr (hcommand ▸ h), hcommand⟩
  · rintro ⟨r, hr, hselects, rfl⟩
    exact (selects_iff_decode hr w).mp hselects

theorem opcodeMap_pairwise_command_ne (k : BitVec 4) :
    opcodeMap.Pairwise fun r q => r.command k ≠ q.command k := by
  revert k
  decide

/-- Two rows have different commands, and a word decodes to one command at most. -/
theorem opcodeMap_pairwise_disjoint (w : Word) :
    opcodeMap.Pairwise fun r q => ¬(r.selects w = true ∧ q.selects w = true) := by
  refine (opcodeMap_pairwise_command_ne (kField w)).imp_of_mem fun hr hq hne => ?_
  rintro ⟨hselects, hselects'⟩
  rw [selects_iff_decode hr] at hselects
  rw [selects_iff_decode hq, hselects] at hselects'
  exact hne (Except.ok.inj hselects')

/-- The 26 commands of R92: 15 without a round index, and ADD_ROUND_KEY with each of its 11. -/
def legalCommands : List Instr :=
  [.gfAdd, .gfMul, .subBytes, .invSubBytes, .shiftRows, .invShiftRows, .mixColumns, .invMixColumns, .expandKey,
    .encryptBlock, .decryptBlock, .ctrApply, .cbcMac, .sealMsg, .openMsg] ++
  ([0, 1, 2, 3, 4, 5, 6, 7, 8, 9, 10] : List (BitVec 4)).map .addRoundKey

theorem mem_legalCommands_iff (i : Instr) : i ∈ legalCommands ↔ i.wf = true := by
  cases i
  case addRoundKey k =>
    revert k
    decide
  all_goals decide

theorem exists_decode_eq_ok_iff (w : Word) : (∃ i, decode w = .ok i) ↔ w ∈ legalCommands.map encode := by
  simp only [decode_eq_ok_iff, List.mem_map, mem_legalCommands_iff]

/-- Settles O3: a row selects the words that decode to its command, and the legal words are those of the well-formed commands. -/
theorem opcodeMapIsTheDecoder : Obligations.OpcodeMapIsTheDecoder := by
  refine ⟨rfl, fun k hk => ?_, decode_eq_ok_iff_exists_row, opcodeMap_pairwise_disjoint, exists_decode_eq_ok_iff⟩
  rw [← encode_addRoundKey]
  exact decode_encode (by simpa [Instr.wf] using hk)

/-! ## Illegal words (spec/30_encoding.md R94, spec/60_exceptions.md R272) -/

/-- The OP column of the opcode map. -/
def opcodes : List Byte := opcodeMap.map fun r => opOf (r.command 0)

theorem mem_opcodes_iff (op : Byte) : op ∈ opcodes ↔ ∃ i, opOf i = op := by
  constructor
  · intro h
    obtain ⟨r, -, hop⟩ := List.mem_map.mp h
    exact ⟨r.command 0, hop⟩
  · rintro ⟨i, rfl⟩
    cases i
    case addRoundKey => exact (by decide : (0x16 : Byte) ∈ opcodes)
    all_goals decide

theorem decodeOp_error_iff {op : Byte} (h : op ≠ 0x16) : (∃ e, decodeOp op = .error e) ↔ op ∉ opcodes := by
  rw [mem_opcodes_iff]
  constructor
  · rintro ⟨e, he⟩ ⟨i, rfl⟩
    rw [decodeOp_opOf h] at he
    cases he
  · intro hnone
    cases hd : decodeOp op with
    | error e => exact ⟨e, rfl⟩
    | ok i => exact absurd ⟨i, (opOf_of_decodeOp hd).1⟩ hnone

/-- The four causes of R94, along the branches of the decoder. -/
theorem decode_error_iff (w : Word) :
    (∃ e, decode w = .error e) ↔
      (resField w ≠ 0 ∨ (opField w = 0x16 ∧ 11 ≤ (kField w).toNat) ∨ (opField w ≠ 0x16 ∧ kField w ≠ 0) ∨
        opField w ∉ opcodes) := by
  have hmem : (0x16 : Byte) ∈ opcodes := by decide
  unfold decode
  split_ifs with hres hop hround hk
  · exact iff_of_true ⟨_, rfl⟩ (.inl hres)
  · refine iff_of_false (fun ⟨_, h⟩ => nomatch h) ?_
    rintro (h | ⟨-, h⟩ | ⟨h, -⟩ | h)
    · exact hres h
    · omega
    · exact h hop
    · exact h (hop ▸ hmem)
  · exact iff_of_true ⟨_, rfl⟩ (.inr (.inl ⟨hop, by omega⟩))
  · exact iff_of_true ⟨_, rfl⟩ (.inr (.inr (.inl ⟨hop, hk⟩)))
  · rw [decodeOp_error_iff hop]
    simp only [hres, hop, hk, false_or, false_and, and_false]

end Sys2Proof

namespace Sys2Proof.Machine

theorem runWord_of_illegal {w : Word} (h : ∃ e, decode w = .error e) (s : State) : runWord w s = runIllegal s := by
  obtain ⟨e, he⟩ := h
  simp [runWord, he]

theorem runIllegal_failsWith {s : State} (h : s.sboxOk = true) : FailsWith (runIllegal s) s .illegalCommand := by
  rw [runIllegal_eq, h]
  rfl

/-- Settles O4: the causes are the branches of the decoder, and an illegal word runs as `runIllegal`. -/
theorem illegalWordsOnlyComplete : Obligations.IllegalWordsOnlyComplete := by
  refine ⟨decode_error_iff, fun w s hillegal hs => ?_⟩
  rw [runWord_of_illegal hillegal]
  exact runIllegal_failsWith hs

/-! ## The CMD statement (spec/30_encoding.md R101) -/

theorem expandCmd_of_wf {i : Instr} (h : i.wf = true) : expandCmd i = some [.wr cmdAddr (encode i)] := if_pos h

theorem expandCmd_of_not_wf {i : Instr} (h : i.wf = false) : expandCmd i = none := if_neg (by simp [h])

/-- `match(m)` of R101: the word of a command without a round index is the match of its row. -/
theorem exists_row_of_encode {i : Instr} (h : ∀ k, i ≠ .addRoundKey k) :
    ∃ r ∈ opcodeMap, r.command 0 = i ∧ encode i = r.pattern := by
  obtain ⟨r, hr, hcommand⟩ := exists_row_of_command i
  rcases isSingle_or_isRound hr with ⟨-, -, -, hword, hsame⟩ | ⟨-, -, -, hround⟩
  · have hzero : r.command 0 = i := (hsame (kOf i)).symm.trans hcommand
    exact ⟨r, hr, hzero, hzero ▸ hword⟩
  · exact absurd ((hround (kOf i)).symm.trans hcommand).symm (h (kOf i))

/-- Settles O5: `CMD i` is `expandCmd i`, and the words are those of the opcode map. -/
theorem cmdStatementIsOneWrite : Obligations.CmdStatementIsOneWrite :=
  ⟨fun _ => expandCmd_of_wf, fun _ => expandCmd_of_not_wf, encode_addRoundKey, fun _ => exists_row_of_encode⟩

end Sys2Proof.Machine

/-! The field GF(2^8): the product as a sum of doublings, its laws, and the two field commands. -/

namespace Sys2Proof.Machine

/-! ## Doubling and the product (spec/40_field.md R112, R113) -/

theorem toNat_xtime (d : Byte) :
    (xtime d).toNat = ((2 * d.toNat) % 256) ^^^ (if 128 ≤ d.toNat then 0x1B else 0) := by
  have high : d.getLsbD 7 = decide (128 ≤ d.toNat) := BitVec.msb_eq_decide d
  have shift : (d <<< 1).toNat = (2 * d.toNat) % 256 := by
    rw [BitVec.toNat_shiftLeft, Nat.shiftLeft_eq, pow_one, Nat.mul_comm]
  rw [xtime, high, BitVec.toNat_xor, shift]
  by_cases h : 128 ≤ d.toNat <;> simp [h]

/-- After a step of the loop, bit i of b and the i-fold doubling are those of i + 1 before it. -/
theorem gfMulLoop_eq_foldl (n : Nat) (acc d b : Byte) :
    gfMulLoop n acc d b =
      (List.range n).foldl (fun acc i => if b.getLsbD i then acc ^^^ (xtime^[i]) d else acc) acc := by
  induction n generalizing acc d b with
  | zero => rfl
  | succ n ih =>
    rw [gfMulLoop, ih, List.range_succ_eq_map, List.foldl_cons, List.foldl_map]
    simp only [BitVec.getLsbD_ushiftRight, Nat.add_comm 1, Function.iterate_succ_apply, Function.iterate_zero_apply,
      gfAdd]

/-- Settles O16: the loop of R113 as a fold over its bit index. -/
theorem gfMulSumsDoublings : Obligations.GfMulSumsDoublings :=
  ⟨toNat_xtime, gfMulLoop_eq_foldl 8 0⟩

/-! ## The field laws (spec/40_field.md R114)

The product is xor-linear in each operand and commutes with doubling, and such maps are equal when they agree at 1. -/

theorem gfMul_zero (a : Byte) : gfMul a 0 = 0 := (gfMul_xorLinear_right a).zero

theorem zero_gfMul (a : Byte) : gfMul 0 a = 0 := (gfMul_xorLinear_left a).zero

theorem gfAdd_self (a : Byte) : gfAdd a a = 0 := BitVec.xor_self

theorem gfMul_gfAdd (a b c : Byte) : gfMul a (gfAdd b c) = gfAdd (gfMul a b) (gfMul a c) :=
  gfMul_xorLinear_right a b c

/-- Both sides are linear in a and in b, so the powers of x decide. -/
theorem gfMul_comm (a b : Byte) : gfMul a b = gfMul b a := by
  have powers : ∀ p ∈ ([1, 2, 4, 8, 16, 32, 64, 128] : List Byte),
      ∀ q ∈ ([1, 2, 4, 8, 16, 32, 64, 128] : List Byte), gfMul p q = gfMul q p := by decide +kernel
  refine (gfMul_xorLinear_left b).ext (gfMul_xorLinear_right b) (fun p hp => ?_) a
  exact (gfMul_xorLinear_right p).ext (gfMul_xorLinear_left p) (powers p hp) b

theorem xtime_zero : xtime 0#8 = 0#8 := xtime_xorLinear.zero

theorem gfMulLoop_xtime (n : Nat) (d b : Byte) : gfMulLoop n 0 (xtime d) b = xtime (gfMulLoop n 0 d b) := by
  induction n generalizing d b with
  | zero => exact xtime_xorLinear.zero.symm
  | succ n ih =>
    rw [gfMulLoop, gfMulLoop_acc, gfMulLoop, gfMulLoop_acc n (if b.getLsbD 0 then gfAdd 0 d else 0), xtime_xorLinear,
      ← ih]
    cases b.getLsbD 0
    · simp [xtime_zero]
    · simp [gfAdd]

theorem gfMul_commute_xtime (b : Byte) : Function.Commute (fun a => gfMul a b) xtime :=
  fun a => gfMulLoop_xtime 8 a b

theorem powers_eq_xtime_iterate :
    ([1, 2, 4, 8, 16, 32, 64, 128] : List Byte) = (List.range 8).map fun i => xtime^[i] 1 := by
  decide +kernel

theorem XorLinear.ext_one {f g : Byte → Byte} (hf : XorLinear f) (hg : XorLinear g)
    (hfx : Function.Commute f xtime) (hgx : Function.Commute g xtime) (h : f 1 = g 1) (a : Byte) : f a = g a := by
  refine hf.ext hg (fun p hp => ?_) a
  rw [powers_eq_xtime_iterate] at hp
  obtain ⟨i, -, rfl⟩ := List.mem_map.mp hp
  calc f (xtime^[i] 1) = xtime^[i] (f 1) := hfx.iterate_right i 1
    _ = xtime^[i] (g 1) := by rw [h]
    _ = g (xtime^[i] 1) := (hgx.iterate_right i 1).symm

theorem gfMul_one (a : Byte) : gfMul a 1 = a :=
  (gfMul_xorLinear_left 1).ext_one XorLinear.id (gfMul_commute_xtime 1) (fun _ => rfl) (by decide) a

theorem one_gfMul (a : Byte) : gfMul 1 a = a := by
  rw [gfMul_comm, gfMul_one]

/-- Both sides are linear in a and commute with doubling, and at a = 1 both are bc. -/
theorem gfMul_assoc (a b c : Byte) : gfMul (gfMul a b) c = gfMul a (gfMul b c) := by
  refine XorLinear.ext_one (f := fun a => gfMul (gfMul a b) c) ((gfMul_xorLinear_left c).comp (gfMul_xorLinear_left b))
    (gfMul_xorLinear_left (gfMul b c)) ((gfMul_commute_xtime c).comp_left (gfMul_commute_xtime b))
    (gfMul_commute_xtime (gfMul b c)) ?_ a
  rw [one_gfMul, one_gfMul]

/-! ## Inverses: a^255 is an idempotent, and it is not 0 when a is not 0 -/

/-- The power a^n by repeated multiplication. -/
def gfPow (a : Byte) (n : Nat) : Byte := (gfMul a)^[n] 1

theorem gfPow_zero (a : Byte) : gfPow a 0 = 1 := rfl

theorem gfPow_succ (a : Byte) (n : Nat) : gfPow a (n + 1) = gfMul a (gfPow a n) :=
  Function.iterate_succ_apply' (gfMul a) n 1

theorem gfPow_one (a : Byte) : gfPow a 1 = a := by
  rw [gfPow_succ, gfPow_zero, gfMul_one]

theorem gfPow_add (a : Byte) (m n : Nat) : gfPow a (m + n) = gfMul (gfPow a m) (gfPow a n) := by
  induction m with
  | zero => rw [Nat.zero_add, gfPow_zero, one_gfMul]
  | succ m ih => rw [Nat.succ_add, gfPow_succ, gfPow_succ, ih, gfMul_assoc]

/-- The square of an element: the Frobenius map of the field. -/
def gfSquare (a : Byte) : Byte := gfMul a a

theorem gfSquare_xorLinear : XorLinear gfSquare := by
  intro a b
  have cross : gfMul b a ^^^ gfMul a b = 0 := by
    rw [gfMul_comm]
    exact BitVec.xor_self
  calc gfSquare (a ^^^ b) = gfMul (a ^^^ b) a ^^^ gfMul (a ^^^ b) b := gfMul_xorLinear_right _ a b
    _ = (gfMul a a ^^^ gfMul b a) ^^^ (gfMul a b ^^^ gfMul b b) :=
        congrArg₂ (· ^^^ ·) (gfMul_xorLinear_left a a b) (gfMul_xorLinear_left b a b)
    _ = gfMul a a ^^^ (gfMul b a ^^^ gfMul a b) ^^^ gfMul b b := by ac_rfl
    _ = gfSquare a ^^^ gfSquare b := by simp [cross, gfSquare]

theorem gfSquare_iterate_eq_gfPow (n : Nat) (a : Byte) : gfSquare^[n] a = gfPow a (2 ^ n) := by
  induction n with
  | zero => exact (gfPow_one a).symm
  | succ n ih => rw [Function.iterate_succ_apply', ih, pow_succ, Nat.mul_two, gfPow_add, gfSquare]

theorem XorLinear.iterate {f : Byte → Byte} (hf : XorLinear f) (n : Nat) : XorLinear f^[n] := by
  induction n with
  | zero => exact XorLinear.id
  | succ n ih => exact ih.comp hf

/-- a^256 is 8 squarings of a, a linear map that fixes the powers of x. -/
theorem gfPow_256_eq_self (a : Byte) : gfPow a 256 = a := by
  have powers : ∀ p ∈ ([1, 2, 4, 8, 16, 32, 64, 128] : List Byte), gfSquare^[8] p = p := by decide +kernel
  calc gfPow a 256 = gfSquare^[8] a := (gfSquare_iterate_eq_gfPow 8 a).symm
    _ = a := (gfSquare_xorLinear.iterate 8).ext XorLinear.id powers a

/-- The one place where irreducibility of the modulus 0x11B is used: checked over the 256 bytes. -/
theorem eq_zero_or_one_of_gfMul_self {e : Byte} (h : gfMul e e = e) : e = 0 ∨ e = 1 := by
  revert e
  decide +kernel

theorem gfPow_255_eq_one {a : Byte} (h : a ≠ 0) : gfPow a 255 = 1 := by
  have idempotent : gfMul (gfPow a 255) (gfPow a 255) = gfPow a 255 :=
    calc gfMul (gfPow a 255) (gfPow a 255) = gfPow a (256 + 254) := (gfPow_add a 255 255).symm
      _ = gfMul a (gfPow a 254) := by rw [gfPow_add, gfPow_256_eq_self]
      _ = gfPow a 255 := (gfPow_succ a 254).symm
  rcases eq_zero_or_one_of_gfMul_self idempotent with h0 | h1
  · refine absurd ?_ h
    rw [← gfPow_256_eq_self a, gfPow_succ, h0, gfMul_zero]
  · exact h1

theorem existsUnique_gfMul_eq_one {a : Byte} (h : a ≠ 0) : ∃! b, gfMul a b = 1 := by
  have inverse : gfMul a (gfPow a 254) = 1 := (gfPow_succ a 254).symm.trans (gfPow_255_eq_one h)
  refine ⟨gfPow a 254, inverse, fun b hb => ?_⟩
  calc b = gfMul (gfMul a (gfPow a 254)) b := by rw [inverse, one_gfMul]
    _ = gfMul (gfPow a 254) (gfMul a b) := by rw [gfMul_comm a (gfPow a 254), gfMul_assoc]
    _ = gfPow a 254 := by rw [hb, gfMul_one]

/-- Settles O17, each law by its lemma. -/
theorem fieldLaws : Obligations.FieldLaws :=
  ⟨gfMul_comm, gfMul_assoc, gfMul_gfAdd, fun a => ⟨one_gfMul a, zero_gfMul a, gfAdd_self a⟩,
    fun _ => existsUnique_gfMul_eq_one⟩

/-! ## The field commands (spec/40_field.md R115, R116) -/

/-- Settles O14: GF_ADD has no check of its own, so it runs. -/
theorem gfAddCommand : Obligations.GfAddCommand :=
  ⟨rfl, fun _ h => exec_runs h rfl, gfAdd_self, by decide⟩

/-- Settles O15: GF_MUL has no check of its own, so it runs; its corner cases are field laws and two products. -/
theorem gfMulCommand : Obligations.GfMulCommand :=
  ⟨rfl, fun _ h => exec_runs h rfl, fun b => ⟨zero_gfMul b, gfMul_zero b, one_gfMul b⟩, by decide, by decide⟩

end Sys2Proof.Machine

/-! The round transforms: blocks as grids of cells, each transform on a cell, the inverse laws, and the six single-step commands without an operand. -/

namespace Sys2Proof.Machine

/-! ## A block as a grid of cells (spec/10_state.md R30) -/

theorem getElem_eq_cell (s : Block) {r c : Nat} (hr : r < 4) (hc : c < 4) : s[r + 4 * c] = cell s r c := by
  simp only [cell, Nat.mod_eq_of_lt hr, Nat.mod_eq_of_lt hc]

theorem getElem_column_eq_cell (s : Block) {r c : Nat} (hr : r < 4) (hc : c < 4) : s[4 * c + r] = cell s r c := by
  simp only [Nat.add_comm (4 * c), getElem_eq_cell s hr hc]

theorem cell_congr (s : Block) {r r' c c' : Nat} (hr : r % 4 = r' % 4) (hc : c % 4 = c' % 4) :
    cell s r c = cell s r' c' := by
  simp only [cell, hr, hc]

@[simp] theorem cell_ofCells (f : Nat → Nat → Byte) (r c : Nat) : cell (ofCells f) r c = f (r % 4) (c % 4) := by
  have hrow : (r % 4 + 4 * (c % 4)) % 4 = r % 4 := by omega
  have hcol : (r % 4 + 4 * (c % 4)) / 4 = c % 4 := by omega
  simp only [cell, ofCells, Vector.getElem_ofFn, hrow, hcol]

theorem block_ext_cell {a b : Block} (h : ∀ r c, r < 4 → c < 4 → cell a r c = cell b r c) : a = b := by
  refine Vector.ext fun i hi => ?_
  have hcell := h (i % 4) (i / 4) (by omega) (by omega)
  rw [← getElem_eq_cell a (by omega) (by omega), ← getElem_eq_cell b (by omega) (by omega)] at hcell
  simpa only [Nat.mod_add_div] using hcell

/-! ## SubBytes (spec/41_round_transforms.md R131, R132) -/

/-- The self-check compares every byte both ways. -/
theorem Rom.pairOk_iff (rom : Rom) :
    rom.pairOk = true ↔ (∀ x, rom.sub (rom.subInv x) = x) ∧ ∀ x, rom.subInv (rom.sub x) = x := by
  have bytes (p : Byte → Prop) : (∀ n < 256, p (BitVec.ofNat 8 n)) ↔ ∀ x, p x := by
    constructor
    · intro h x
      simpa using h x.toNat x.isLt
    · exact fun h n _ => h _
  simp only [Rom.pairOk, Bool.and_eq_true, List.all_eq_true, List.mem_range, beq_iff_eq]
  exact and_congr (bytes fun x => rom.sub (rom.subInv x) = x) (bytes fun x => rom.subInv (rom.sub x) = x)

@[simp] theorem getElem_subBytes (rom : Rom) (s : Block) (i : Nat) (h : i < 16) :
    (subBytes rom s)[i] = rom.sub s[i] := by
  simp [subBytes]

@[simp] theorem getElem_subBytesInv (rom : Rom) (s : Block) (i : Nat) (h : i < 16) :
    (subBytesInv rom s)[i] = rom.subInv s[i] := by
  simp [subBytesInv]

theorem subBytesInv_subBytes {rom : Rom} (h : rom.pairOk = true) (s : Block) :
    subBytesInv rom (subBytes rom s) = s := by
  refine Vector.ext fun i hi => ?_
  rw [getElem_subBytesInv, getElem_subBytes, (rom.pairOk_iff.mp h).2]

theorem subBytes_subBytesInv {rom : Rom} (h : rom.pairOk = true) (s : Block) :
    subBytes rom (subBytesInv rom s) = s := by
  refine Vector.ext fun i hi => ?_
  rw [getElem_subBytes, getElem_subBytesInv, (rom.pairOk_iff.mp h).1]

theorem standard_sub_ne_self (x : Byte) : Rom.standard.sub x ≠ x := by
  revert x
  decide +kernel

/-! ## ShiftRows (spec/41_round_transforms.md R133): a rotation right by r is one left by 3r -/

theorem cell_shiftRows (s : Block) (r c : Nat) : cell (shiftRows s) r c = cell s r (c + r) := by
  rw [shiftRows, cell_ofCells]
  exact cell_congr s (by omega) (by omega)

theorem cell_shiftRowsInv (s : Block) (r c : Nat) : cell (shiftRowsInv s) r c = cell s r (c + 3 * r) := by
  rw [shiftRowsInv, cell_ofCells]
  exact cell_congr s (by omega) (by omega)

theorem shiftRowsInv_shiftRows (s : Block) : shiftRowsInv (shiftRows s) = s := by
  refine block_ext_cell fun r c _ _ => ?_
  rw [cell_shiftRowsInv, cell_shiftRows]
  exact cell_congr s rfl (by omega)

theorem shiftRows_shiftRowsInv (s : Block) : shiftRows (shiftRowsInv s) = s := by
  refine block_ext_cell fun r c _ _ => ?_
  rw [cell_shiftRows, cell_shiftRowsInv]
  exact cell_congr s rfl (by omega)

theorem shiftRows_four_times (s : Block) : shiftRows (shiftRows (shiftRows (shiftRows s))) = s := by
  refine block_ext_cell fun r c _ _ => ?_
  simp only [cell_shiftRows]
  exact cell_congr s rfl (by omega)

/-- The permutation p of R133. -/
theorem toList_shiftRows (s : Block) :
    (shiftRows s).toList =
      ([0, 5, 10, 15, 4, 9, 14, 3, 8, 13, 2, 7, 12, 1, 6, 11] : List (Fin 16)).map (s[·]) :=
  Vector.toList_ofFn

/-- The permutation q of R133. -/
theorem toList_shiftRowsInv (s : Block) :
    (shiftRowsInv s).toList =
      ([0, 13, 10, 7, 4, 1, 14, 11, 8, 5, 2, 15, 12, 9, 6, 3] : List (Fin 16)).map (s[·]) :=
  Vector.toList_ofFn

/-! ## Sums of four terms, as in a row of a matrix times a column -/

/-! `one_gfMul` and `zero_gfMul` in the spelling that `simp` gives the two constants. -/

@[simp] theorem ofNat_one_gfMul (a : Byte) : gfMul 1#8 a = a := one_gfMul a

@[simp] theorem ofNat_zero_gfMul (a : Byte) : gfMul 0#8 a = 0#8 := zero_gfMul a

/-- The sum `f 0 + f 1 + f 2 + f 3` in the order of R134. -/
def gfSum4 (f : Nat → Byte) : Byte := gfAdd (gfAdd (gfAdd (f 0) (f 1)) (f 2)) (f 3)

theorem gfSum4_congr {f g : Nat → Byte} (h : ∀ k < 4, f k = g k) : gfSum4 f = gfSum4 g := by
  simp only [gfSum4, h 0, h 1, h 2, h 3, Nat.reduceLT]

theorem gfMul_gfSum4 (a : Byte) (f : Nat → Byte) : gfMul a (gfSum4 f) = gfSum4 fun k => gfMul a (f k) := by
  simp only [gfSum4, gfMul_gfAdd]

theorem gfSum4_gfMul (f : Nat → Byte) (a : Byte) : gfMul (gfSum4 f) a = gfSum4 fun k => gfMul (f k) a := by
  simp only [gfMul_comm _ a, gfMul_gfSum4]

theorem gfSum4_comm (f : Nat → Nat → Byte) :
    gfSum4 (fun j => gfSum4 (f j)) = gfSum4 fun k => gfSum4 fun j => f j k := by
  simp only [gfSum4, gfAdd]
  ac_rfl

/-- Row r of the identity matrix selects the term r. -/
theorem gfSum4_identity {r : Nat} (hr : r < 4) (f : Nat → Byte) :
    gfSum4 (fun k => gfMul (if r = k then 1 else 0) (f k)) = f r := by
  interval_cases r <;> simp [gfSum4, gfAdd]

/-! ## MixColumns (spec/41_round_transforms.md R134, R135) -/

theorem cell_multiplyColumns (m : Vector Byte 4) (s : Block) {r c : Nat} (hr : r < 4) (hc : c < 4) :
    cell (multiplyColumns m s) r c = gfSum4 fun k => gfMul (matrixEntry m r k) (cell s k c) := by
  rw [multiplyColumns, cell_ofCells, Nat.mod_eq_of_lt hr, Nat.mod_eq_of_lt hc]
  rfl

/-- The matrices with the row 0 given multiply to the identity matrix. -/
def MatrixInverse (m n : Vector Byte 4) : Prop :=
  ∀ r < 4, ∀ k < 4, gfSum4 (fun j => gfMul (matrixEntry m r j) (matrixEntry n j k)) = if r = k then 1 else 0

theorem mixRowInv_mixRow_matrixInverse : MatrixInverse mixRowInv mixRow := by
  unfold MatrixInverse
  decide

theorem mixRow_mixRowInv_matrixInverse : MatrixInverse mixRow mixRowInv := by
  unfold MatrixInverse
  decide

/-- The product with a column is associative, by exchanging the sums over the inner and the outer index. -/
theorem multiplyColumns_multiplyColumns {m n : Vector Byte 4} (h : MatrixInverse m n) (s : Block) :
    multiplyColumns m (multiplyColumns n s) = s := by
  refine block_ext_cell fun r c hr hc => ?_
  calc cell (multiplyColumns m (multiplyColumns n s)) r c
      = gfSum4 fun j => gfMul (matrixEntry m r j) (gfSum4 fun k => gfMul (matrixEntry n j k) (cell s k c)) := by
        rw [cell_multiplyColumns m _ hr hc]
        exact gfSum4_congr fun j hj => by rw [cell_multiplyColumns n s hj hc]
    _ = gfSum4 fun j => gfSum4 fun k => gfMul (gfMul (matrixEntry m r j) (matrixEntry n j k)) (cell s k c) := by
        simp only [gfMul_gfSum4, gfMul_assoc]
    _ = gfSum4 fun k => gfMul (gfSum4 fun j => gfMul (matrixEntry m r j) (matrixEntry n j k)) (cell s k c) := by
        simp only [gfSum4_comm fun j k => gfMul (gfMul (matrixEntry m r j) (matrixEntry n j k)) (cell s k c),
          gfSum4_gfMul]
    _ = gfSum4 fun k => gfMul (if r = k then 1 else 0) (cell s k c) :=
        gfSum4_congr fun k hk => by rw [h r hr k hk]
    _ = cell s r c := gfSum4_identity hr _

theorem mixColumnsInv_mixColumns (s : Block) : mixColumnsInv (mixColumns s) = s :=
  multiplyColumns_multiplyColumns mixRowInv_mixRow_matrixInverse s

theorem mixColumns_mixColumnsInv (s : Block) : mixColumns (mixColumnsInv s) = s :=
  multiplyColumns_multiplyColumns mixRow_mixRowInv_matrixInverse s

/-- A byte of a multiplied column: its row of the matrix times the old column. -/
theorem getElem_multiplyColumns (m : Vector Byte 4) (s : Block) {c : Nat} (hc : c < 4) {a0 a1 a2 a3 : Byte}
    (h0 : s[4 * c] = a0) (h1 : s[4 * c + 1] = a1) (h2 : s[4 * c + 2] = a2) (h3 : s[4 * c + 3] = a3)
    {r : Nat} (hr : r < 4) :
    (multiplyColumns m s)[4 * c + r] =
      gfMul (matrixEntry m r 0) a0 ^^^ gfMul (matrixEntry m r 1) a1 ^^^ gfMul (matrixEntry m r 2) a2 ^^^
        gfMul (matrixEntry m r 3) a3 := by
  have column (k : Nat) (hk : k < 4) : cell s k c = s[4 * c + k] := (getElem_column_eq_cell s hk hc).symm
  rw [getElem_column_eq_cell _ hr hc, cell_multiplyColumns m s hr hc, gfSum4, column 0 (by omega),
    column 1 (by omega), column 2 (by omega), column 3 (by omega), ← h0, ← h1, ← h2, ← h3]
  rfl

/-- A column of MixColumns, with the rows of the matrix written out. -/
theorem mixColumns_column (s : Block) {c : Nat} (hc : c < 4) {a0 a1 a2 a3 : Byte} (h0 : s[4 * c] = a0)
    (h1 : s[4 * c + 1] = a1) (h2 : s[4 * c + 2] = a2) (h3 : s[4 * c + 3] = a3) :
    (mixColumns s)[4 * c] = gfMul 2 a0 ^^^ gfMul 3 a1 ^^^ a2 ^^^ a3 ∧
    (mixColumns s)[4 * c + 1] = a0 ^^^ gfMul 2 a1 ^^^ gfMul 3 a2 ^^^ a3 ∧
    (mixColumns s)[4 * c + 2] = a0 ^^^ a1 ^^^ gfMul 2 a2 ^^^ gfMul 3 a3 ∧
    (mixColumns s)[4 * c + 3] = gfMul 3 a0 ^^^ a1 ^^^ a2 ^^^ gfMul 2 a3 := by
  have row {r : Nat} (hr : r < 4) := getElem_multiplyColumns mixRow s hc h0 h1 h2 h3 hr
  refine ⟨(row (r := 0) (by omega)).trans ?_, (row (r := 1) (by omega)).trans ?_,
    (row (r := 2) (by omega)).trans ?_, (row (r := 3) (by omega)).trans ?_⟩ <;> simp [matrixEntry, mixRow]

/-- A column of MixColumnsInv, with the rows of the matrix written out. -/
theorem mixColumnsInv_column (s : Block) {c : Nat} (hc : c < 4) {a0 a1 a2 a3 : Byte} (h0 : s[4 * c] = a0)
    (h1 : s[4 * c + 1] = a1) (h2 : s[4 * c + 2] = a2) (h3 : s[4 * c + 3] = a3) :
    (mixColumnsInv s)[4 * c] = gfMul 14 a0 ^^^ gfMul 11 a1 ^^^ gfMul 13 a2 ^^^ gfMul 9 a3 ∧
    (mixColumnsInv s)[4 * c + 1] = gfMul 9 a0 ^^^ gfMul 14 a1 ^^^ gfMul 11 a2 ^^^ gfMul 13 a3 ∧
    (mixColumnsInv s)[4 * c + 2] = gfMul 13 a0 ^^^ gfMul 9 a1 ^^^ gfMul 14 a2 ^^^ gfMul 11 a3 ∧
    (mixColumnsInv s)[4 * c + 3] = gfMul 11 a0 ^^^ gfMul 13 a1 ^^^ gfMul 9 a2 ^^^ gfMul 14 a3 := by
  have row {r : Nat} (hr : r < 4) := getElem_multiplyColumns mixRowInv s hc h0 h1 h2 h3 hr
  exact ⟨row (r := 0) (by omega), row (r := 1) (by omega), row (r := 2) (by omega), row (r := 3) (by omega)⟩

/-- A row whose entries sum to 1 keeps a column of four equal bytes. -/
theorem gfSum4_gfMul_same {m : Nat → Byte} (h : gfSum4 m = 1) (a : Byte) :
    gfSum4 (fun k => gfMul (m k) a) = a := by
  rw [← gfSum4_gfMul, h, one_gfMul]

theorem mixRow_equal_bytes (a : Byte) : gfMul 2 a ^^^ gfMul 3 a ^^^ a ^^^ a = a := by
  have h := gfSum4_gfMul_same (m := matrixEntry mixRow 0) (by decide) a
  simpa [gfSum4, gfAdd, matrixEntry, mixRow] using h

theorem mixRowInv_equal_bytes (a : Byte) : gfMul 14 a ^^^ gfMul 11 a ^^^ gfMul 13 a ^^^ gfMul 9 a = a :=
  gfSum4_gfMul_same (m := matrixEntry mixRowInv 0) (by decide) a

/-! ## AddRoundKey (spec/41_round_transforms.md R136) -/

@[simp] theorem getElem_addRoundKey (s k : Block) (i : Nat) (h : i < 16) : (addRoundKey s k)[i] = s[i] ^^^ k[i] := by
  simp [addRoundKey, xor16]

theorem addRoundKey_addRoundKey (s k : Block) : addRoundKey (addRoundKey s k) k = s := by
  refine Vector.ext fun i hi => ?_
  rw [getElem_addRoundKey, getElem_addRoundKey, BitVec.xor_assoc, BitVec.xor_self, BitVec.xor_zero]

/-- Settles O22, each law by its lemma. -/
theorem transformsAreInverse : Obligations.TransformsAreInverse :=
  fun _ b k h =>
    ⟨subBytesInv_subBytes h b, subBytes_subBytesInv h b, shiftRowsInv_shiftRows b, shiftRows_shiftRowsInv b,
      mixColumnsInv_mixColumns b, mixColumns_mixColumnsInv b, addRoundKey_addRoundKey b k⟩

/-! ## The single-step commands (spec/41_round_transforms.md R140 to R145) -/

/-- Command i replaces STATE by f of the tables and the old STATE, and writes nothing else but the completion. -/
def Transforms (i : Instr) (f : Rom → Block → Block) : Prop :=
  ∀ s : State, s.sboxOk = true →
    exec i s = .next { s with state := f s.rom s.state, err := .none, done := true, seq := .idle }

theorem transforms_subBytes : Transforms .subBytes subBytes :=
  fun s hs => exec_state_command hs rfl (commandEffect_subBytes s)

theorem transforms_invSubBytes : Transforms .invSubBytes subBytesInv :=
  fun s hs => exec_state_command hs rfl (commandEffect_invSubBytes s)

theorem transforms_shiftRows : Transforms .shiftRows fun _ => shiftRows :=
  fun s hs => exec_state_command hs rfl (commandEffect_shiftRows s)

theorem transforms_invShiftRows : Transforms .invShiftRows fun _ => shiftRowsInv :=
  fun s hs => exec_state_command hs rfl (commandEffect_invShiftRows s)

theorem transforms_mixColumns : Transforms .mixColumns fun _ => mixColumns :=
  fun s hs => exec_state_command hs rfl (commandEffect_mixColumns s)

theorem transforms_invMixColumns : Transforms .invMixColumns fun _ => mixColumnsInv :=
  fun s hs => exec_state_command hs rfl (commandEffect_invMixColumns s)

/-- A run of such commands applies their functions to STATE one after another. -/
theorem runCommands_of_transforms {is : List Instr} {fs : List (Rom → Block → Block)}
    (h : List.Forall₂ Transforms is fs) {s : State} (hs : s.sboxOk = true) :
    ∃ t, runCommands is s = some t ∧ t.state = fs.foldl (fun b f => f s.rom b) s.state := by
  induction h generalizing s with
  | nil => exact ⟨s, rfl, rfl⟩
  | cons head _ ih =>
    rw [runCommands_cons (head s hs)]
    exact ih hs

theorem runCommands_subBytes_invSubBytes {s : State} (hs : s.sboxOk = true) (hrom : s.rom.pairOk = true) :
    ∃ t, runCommands [.subBytes, .invSubBytes] s = some t ∧ t.state = s.state := by
  obtain ⟨t, run, hstate⟩ :=
    runCommands_of_transforms (.cons transforms_subBytes (.cons transforms_invSubBytes .nil)) hs
  exact ⟨t, run, hstate.trans (subBytesInv_subBytes hrom s.state)⟩

/-- Settles O18: the commands are SubBytes and its inverse on STATE. -/
theorem subBytesCommands : Obligations.SubBytesCommands := by
  refine ⟨rfl, rfl, fun s hs => ⟨?_, ?_⟩, standard_sub_ne_self, rfl, rfl, rfl, rfl,
    fun _ => runCommands_subBytes_invSubBytes⟩
  · exact ⟨_, transforms_subBytes s hs, rfl, fun i => getElem_subBytes s.rom s.state i i.isLt⟩
  · exact ⟨_, transforms_invSubBytes s hs, rfl, fun i => getElem_subBytesInv s.rom s.state i i.isLt⟩

theorem runCommands_shiftRows_four_times {s : State} (hs : s.sboxOk = true) :
    ∃ t, runCommands [.shiftRows, .shiftRows, .shiftRows, .shiftRows] s = some t ∧ t.state = s.state := by
  obtain ⟨t, run, hstate⟩ := runCommands_of_transforms (.cons transforms_shiftRows (.cons transforms_shiftRows
    (.cons transforms_shiftRows (.cons transforms_shiftRows .nil)))) hs
  exact ⟨t, run, hstate.trans (shiftRows_four_times s.state)⟩

theorem runCommands_shiftRows_invShiftRows {s : State} (hs : s.sboxOk = true) :
    ∃ t, runCommands [.shiftRows, .invShiftRows] s = some t ∧ t.state = s.state := by
  obtain ⟨t, run, hstate⟩ :=
    runCommands_of_transforms (.cons transforms_shiftRows (.cons transforms_invShiftRows .nil)) hs
  exact ⟨t, run, hstate.trans (shiftRowsInv_shiftRows s.state)⟩

/-- Settles O19: the commands are ShiftRows and its inverse on STATE, read cell by cell. -/
theorem shiftRowsCommands : Obligations.ShiftRowsCommands := by
  refine ⟨rfl, rfl, fun s hs => ⟨?_, ?_⟩, fun b => ⟨toList_shiftRows b, toList_shiftRowsInv b⟩,
    fun s hs => ⟨runCommands_shiftRows_four_times hs, runCommands_shiftRows_invShiftRows hs⟩⟩
  · refine ⟨_, transforms_shiftRows s hs, rfl, fun r c => ?_⟩
    rw [getElem_eq_cell _ r.isLt c.isLt, getElem_eq_cell _ r.isLt (by omega), cell_shiftRows]
    exact cell_congr s.state rfl (by omega)
  · refine ⟨_, transforms_invShiftRows s hs, rfl, fun r c => ?_⟩
    rw [getElem_eq_cell _ r.isLt c.isLt, getElem_eq_cell _ r.isLt (by omega), cell_shiftRowsInv]
    exact cell_congr s.state rfl (by omega)

/-- Settles O20: the commands are MixColumns and its inverse on STATE, read column by column. -/
theorem mixColumnsCommands : Obligations.MixColumnsCommands := by
  refine ⟨rfl, rfl, fun s hs => ⟨?_, ?_⟩, fun a => ⟨mixRow_equal_bytes a, mixRowInv_equal_bytes a⟩⟩
  · refine ⟨_, transforms_mixColumns s hs, rfl, fun c a0 a1 a2 a3 h0 h1 h2 h3 => ?_⟩
    exact mixColumns_column s.state c.isLt h0 h1 h2 h3
  · refine ⟨_, transforms_invMixColumns s hs, rfl, fun c a0 a1 a2 a3 h0 h1 h2 h3 => ?_⟩
    exact mixColumnsInv_column s.state c.isLt h0 h1 h2 h3

end Sys2Proof.Machine

/-! The key schedule: its words one by one, the recurrence on them, and the command EXPAND_KEY. -/

namespace Sys2Proof.Machine

/-! ## The word helpers, byte by byte (spec/42_key_schedule.md R161) -/

theorem getElem_rotWord (a : KeyWord) {b : Nat} (hb : b < 4) : (rotWord a)[b] = a[(b + 1) % 4] := by
  interval_cases b <;> rfl

theorem getElem_subWord (rom : Rom) (a : KeyWord) {b : Nat} (hb : b < 4) : (subWord rom a)[b] = rom.sub a[b] := by
  interval_cases b <;> rfl

theorem getElem_rcon (r : Nat) {b : Nat} (hb : b < 4) :
    (rcon r)[b] = if b = 0 then rconBytes.getD (r - 1) 0 else 0 := by
  interval_cases b <;> rfl

theorem getElem_wxor (u v : KeyWord) {b : Nat} (hb : b < 4) : (wxor u v)[b] = u[b] ^^^ v[b] := by
  interval_cases b <;> rfl

/-! ## The words of the schedule (spec/42_key_schedule.md R160, R162) -/

/-- Word j of four consecutive words. -/
def KeyWords.word (v : KeyWords) (j : Fin 4) : KeyWord := #v[v.w0, v.w1, v.w2, v.w3][j]

theorem getElem_block (v : KeyWords) (j : Fin 4) {b : Nat} (hb : b < 4) :
    v.block[4 * j.val + b] = (v.word j)[b] := by
  fin_cases j <;> interval_cases b <;> rfl

/-- `W[i]` of `Expand(key)`; the schedule goes on after the 44 words of R160. -/
def scheduleWord (rom : Rom) (key : Block) (i : Nat) : KeyWord :=
  (scheduleWords rom key (i / 4)).word (Fin.ofNat 4 i)

theorem scheduleWord_four_mul_add (rom : Rom) (key : Block) (k : Nat) (j : Fin 4) :
    scheduleWord rom key (4 * k + j) = (scheduleWords rom key k).word j := by
  have hrow : (4 * k + j) / 4 = k := by omega
  have hcol : Fin.ofNat 4 (4 * k + j) = j := Fin.ext (by simp)
  rw [scheduleWord, hrow, hcol]

@[simp] theorem getElem_expand (rom : Rom) (key : Block) {k : Nat} (hk : k < 11) :
    (expand rom key)[k] = (scheduleWords rom key k).block := by
  simp [expand]

theorem getElem_expand_eq_scheduleWord (rom : Rom) (key : Block) {i b : Nat} (hi : i < 44) (hb : b < 4) :
    ((expand rom key)[i / 4])[4 * (i % 4) + b] = (scheduleWord rom key i)[b] := by
  rw [getElem_expand]
  exact getElem_block _ (Fin.ofNat 4 i) hb

/-- Round key 0 is the master key (spec/42_key_schedule.md R163). -/
theorem expand_zero (rom : Rom) (key : Block) : (expand rom key)[0] = key := by
  rw [getElem_expand]
  refine Vector.ext fun i hi => ?_
  interval_cases i <;> rfl

/-- The recurrence of R162 at a multiple of 4. -/
theorem scheduleWord_of_mod_eq_zero (rom : Rom) (key : Block) {i : Nat} (h4 : 4 ≤ i) (hi : i % 4 = 0) :
    scheduleWord rom key i =
      wxor (wxor (scheduleWord rom key (i - 4)) (rcon (i / 4)))
        (subWord rom (rotWord (scheduleWord rom key (i - 1)))) := by
  obtain ⟨k, rfl⟩ : ∃ k, i = 4 * (k + 1) := ⟨i / 4 - 1, by omega⟩
  have back4 : 4 * (k + 1) - 4 = 4 * k := by omega
  have back1 : 4 * (k + 1) - 1 = 4 * k + 3 := by omega
  have row : 4 * (k + 1) / 4 = k + 1 := by omega
  have w0 : scheduleWord rom key (4 * k) = (scheduleWords rom key k).w0 := scheduleWord_four_mul_add rom key k 0
  have w3 : scheduleWord rom key (4 * k + 3) = (scheduleWords rom key k).w3 := scheduleWord_four_mul_add rom key k 3
  rw [back4, back1, row, w0, w3]
  exact scheduleWord_four_mul_add rom key (k + 1) 0

/-- The recurrence of R162 elsewhere. -/
theorem scheduleWord_of_mod_ne_zero (rom : Rom) (key : Block) {i : Nat} (h4 : 4 ≤ i) (hi : i % 4 ≠ 0) :
    scheduleWord rom key i = wxor (scheduleWord rom key (i - 4)) (scheduleWord rom key (i - 1)) := by
  obtain ⟨k, j, rfl⟩ : ∃ (k : Nat) (j : Fin 3), i = 4 * (k + 1) + j.succ :=
    ⟨i / 4 - 1, ⟨i % 4 - 1, by omega⟩, by simp; omega⟩
  have back4 : 4 * (k + 1) + j.succ.val - 4 = 4 * k + j.succ := by omega
  have back1 : 4 * (k + 1) + j.succ.val - 1 = 4 * (k + 1) + j.castSucc := by simp
  rw [back4, back1]
  simp only [scheduleWord_four_mul_add, scheduleWords]
  fin_cases j <;> rfl

/-- Settles O23: word i of the statement is `scheduleWord`, and the recurrence on words is read at a byte. -/
theorem keyScheduleRecurrence : Obligations.KeyScheduleRecurrence := by
  intro rom key word hword
  have word_eq {i b : Nat} (hi : i < 44) (hb : b < 4) : word i b = (scheduleWord rom key i)[b] :=
    (hword i b hi hb).trans (getElem_expand_eq_scheduleWord rom key hi hb)
  refine ⟨fun i b hi hb => ?_, fun i b h4 hi hb hmod => ?_, fun i b h4 hi hb hmod => ?_⟩
  · rw [hword i b (by omega) hb]
    simp only [Nat.div_eq_of_lt hi, Nat.mod_eq_of_lt hi, expand_zero]
  · rw [word_eq hi hb, word_eq (by omega) hb, word_eq (by omega) hb, scheduleWord_of_mod_ne_zero rom key h4 hmod,
      getElem_wxor _ _ hb]
  · rw [word_eq hi hb, word_eq (by omega) hb, word_eq (by omega) (by omega),
      scheduleWord_of_mod_eq_zero rom key h4 hmod, getElem_wxor _ _ hb, getElem_wxor _ _ hb, getElem_rcon _ hb,
      getElem_subWord _ _ hb, getElem_rotWord _ hb]
    rfl

/-! ## EXPAND_KEY and RK_VALID (spec/42_key_schedule.md R165) -/

theorem exec_expandKey {s : State} (h : s.sboxOk = true) :
    exec .expandKey s =
      .next { s with rk := expand s.rom s.key, rkValid := true, err := .none, done := true, seq := .idle } :=
  exec_runs h rfl

/-- Running EXPAND_KEY again writes the same RK, since KEY is unchanged. -/
theorem exec_expandKey_twice {s : State} (h : s.sboxOk = true) :
    ∃ t u, exec .expandKey s = .next t ∧ exec .expandKey t = .next u ∧ u.rk = t.rk := by
  refine ⟨_, _, exec_expandKey h, exec_expandKey ?_, rfl⟩
  exact h

/-- A command's effect leaves RK_VALID alone, or is that of one of the three commands that derive round keys. -/
theorem rkValid_commandEffect (i : Instr) (s : State) :
    (commandEffect i s).1.rkValid = s.rkValid ∨
      ((commandEffect i s).1.rkValid = true ∧ (i = .expandKey ∨ i = .sealMsg ∨ i = .openMsg)) := by
  cases i with
  | addRoundKey k =>
    by_cases h : k.toNat ≤ 10
    · exact .inl (by rw [commandEffect_addRoundKey h, State.writeState_rkValid])
    · exact .inl (by rw [commandEffect_addRoundKey_illegal h])
  | expandKey => exact .inr ⟨by simp, .inl rfl⟩
  | sealMsg => exact .inr ⟨by simp, .inr (.inl rfl)⟩
  | openMsg =>
    refine .inr ⟨?_, .inr (.inr rfl)⟩
    cases h : openString s.rom s.message s.key s.counter with
    | none => simp [commandEffect_openMsg_tampered h]
    | some pt => simp [commandEffect_openMsg_verified h]
  | _ => exact .inl (by simp)

theorem exec_rkValid {i : Instr} {s t : State} (h : exec i s = .next t) :
    t.rkValid = s.rkValid ∨ (t.rkValid = true ∧ (i = .expandKey ∨ i = .sealMsg ∨ i = .openMsg)) := by
  rcases exec_cases h with ⟨-, rfl⟩ | ⟨-, e, -, rfl⟩ | ⟨-, -, rfl⟩
  · exact .inl rfl
  · exact .inl rfl
  · exact rkValid_commandEffect i s

/-- Settles O24: EXPAND_KEY has no check of its own, so it runs; what a command does to RK_VALID is `exec_rkValid`. -/
theorem expandKeyCommand : Obligations.ExpandKeyCommand := by
  refine ⟨rfl, fun s hs => ⟨exec_expandKey hs, exec_expandKey_twice hs⟩, fun i s t hexec => ?_, expand_zero,
    by decide⟩
  rcases exec_rkValid hexec with hsame | ⟨hvalid, hi⟩
  · exact ⟨hsame.trans, fun hold hnew => by simp [hsame, hold] at hnew⟩
  · exact ⟨fun _ => hvalid, fun _ _ => hi⟩

end Sys2Proof.Machine

/-! The block cipher: decryption undoes encryption, the one-shot commands, and the round-by-round programs as runs that compute the same function of STATE. -/

namespace Sys2Proof.Machine

/-! ## Decrypt is the inverse of Encrypt (spec/43_block_cipher.md R180, R181, R184) -/

/-- Steps undone one by one, the last one first. -/
theorem foldl_reverse_foldl {α β : Type} {f g : α → β → α} (h : ∀ a b, g (f a b) b = a) (l : List β) (a : α) :
    l.reverse.foldl g (l.foldl f a) = a := by
  induction l generalizing a with
  | nil => rfl
  | cons b l ih => simp only [List.reverse_cons, List.foldl_append, List.foldl_cons, List.foldl_nil, ih, h]

theorem decryptRound_encryptRound {rom : Rom} (h : rom.pairOk = true) (rk : RoundKeys) (s : Block) (k : Fin 11) :
    decryptRound rom rk (encryptRound rom rk s k) k = s := by
  rw [decryptRound, encryptRound, addRoundKey_addRoundKey, mixColumnsInv_mixColumns, shiftRowsInv_shiftRows,
    subBytesInv_subBytes h]

theorem encryptRound_decryptRound {rom : Rom} (h : rom.pairOk = true) (rk : RoundKeys) (s : Block) (k : Fin 11) :
    encryptRound rom rk (decryptRound rom rk s k) k = s := by
  rw [decryptRound, encryptRound, subBytes_subBytesInv h, shiftRows_shiftRowsInv, mixColumns_mixColumnsInv,
    addRoundKey_addRoundKey]

theorem decrypt_encrypt {rom : Rom} (h : rom.pairOk = true) (rk : RoundKeys) (p : Block) :
    decrypt rom (encrypt rom p rk) rk = p := by
  rw [decrypt, encrypt, addRoundKey_addRoundKey, shiftRowsInv_shiftRows, subBytesInv_subBytes h,
    foldl_reverse_foldl (decryptRound_encryptRound h rk), addRoundKey_addRoundKey]

theorem encrypt_decrypt {rom : Rom} (h : rom.pairOk = true) (rk : RoundKeys) (c : Block) :
    encrypt rom (decrypt rom c rk) rk = c := by
  have rounds (b : Block) :
      middleRounds.foldl (encryptRound rom rk) (middleRounds.reverse.foldl (decryptRound rom rk) b) = b := by
    simpa only [List.reverse_reverse] using
      foldl_reverse_foldl (encryptRound_decryptRound h rk) middleRounds.reverse b
  rw [encrypt, decrypt, addRoundKey_addRoundKey, rounds, subBytes_subBytesInv h, shiftRows_shiftRowsInv,
    addRoundKey_addRoundKey]

/-- Settles O27: `decrypt` with the same round keys is a two-sided inverse of `encrypt`. -/
theorem decryptInvertsEncrypt : Obligations.DecryptInvertsEncrypt :=
  fun rom h =>
    ⟨fun key p => decrypt_encrypt h (expand rom key) p, fun rk => Function.bijective_iff_has_inverse.mpr
      ⟨fun c => decrypt rom c rk, decrypt_encrypt h rk, encrypt_decrypt h rk⟩⟩

/-! ## Runs of commands that compute a function of STATE under RK -/

/-- From every state with SBOX_OK = 1 and RK_VALID = 1 the commands replace STATE by f of the tables, RK and the old STATE, and write nothing else but the completion. -/
def RunTransforms (is : List Instr) (f : Rom → RoundKeys → Block → Block) : Prop :=
  ∀ s : State, s.sboxOk = true → s.rkValid = true →
    runCommands is s = some { s with state := f s.rom s.rk s.state, err := .none, done := true, seq := .idle }

theorem runCommands_append {is : List Instr} {s t : State} (h : runCommands is s = some t) (js : List Instr) :
    runCommands (is ++ js) s = runCommands js t := by
  induction is generalizing s with
  | nil => rw [List.nil_append, Option.some.inj h]
  | cons i is ih =>
    obtain ⟨u, hu⟩ : ∃ u, exec i s = .next u := exec_eq i s ▸ runCommand_next ..
    rw [runCommands_cons hu] at h
    rw [List.cons_append, runCommands_cons hu, ih h]

theorem RunTransforms.append {is js : List Instr} {f g : Rom → RoundKeys → Block → Block}
    (hf : RunTransforms is f) (hg : RunTransforms js g) :
    RunTransforms (is ++ js) fun rom rk b => g rom rk (f rom rk b) := by
  intro s hs hv
  rw [runCommands_append (hf s hs hv)]
  exact hg _ hs hv

/-- A program that goes through round numbers, round by round after the commands before it. -/
theorem RunTransforms.append_flatMap {program : Fin 11 → List Instr}
    {round : Rom → RoundKeys → Block → Fin 11 → Block}
    (hround : ∀ k, RunTransforms (program k) fun rom rk b => round rom rk b k)
    {is : List Instr} {f : Rom → RoundKeys → Block → Block} (hf : RunTransforms is f) (ks : List (Fin 11)) :
    RunTransforms (is ++ ks.flatMap program) fun rom rk b => ks.foldl (round rom rk) (f rom rk b) := by
  induction ks generalizing is f with
  | nil => rwa [List.flatMap_nil, List.append_nil]
  | cons k ks ih =>
    rw [List.flatMap_cons, ← List.append_assoc]
    exact ih (hf.append (hround k))

theorem Transforms.run {i : Instr} {f : Rom → Block → Block} (h : Transforms i f) :
    RunTransforms [i] fun rom _ => f rom :=
  fun s hs _ => runCommands_cons (h s hs)

/-! ## The commands that need RK (spec/41_round_transforms.md R146, spec/43_block_cipher.md R182, R183) -/

theorem exec_encryptBlock {s : State} (hs : s.sboxOk = true) (hv : s.rkValid = true) :
    exec .encryptBlock s =
      .next { s with state := encrypt s.rom s.state s.rk, err := .none, done := true, seq := .idle } :=
  exec_state_command hs (by simp [commandChecks, hv]) (commandEffect_encryptBlock s)

theorem exec_decryptBlock {s : State} (hs : s.sboxOk = true) (hv : s.rkValid = true) :
    exec .decryptBlock s =
      .next { s with state := decrypt s.rom s.state s.rk, err := .none, done := true, seq := .idle } :=
  exec_state_command hs (by simp [commandChecks, hv]) (commandEffect_decryptBlock s)

theorem exec_addRoundKey {s : State} {k : BitVec 4} (hk : k.toNat ≤ 10) (hs : s.sboxOk = true)
    (hv : s.rkValid = true) :
    exec (.addRoundKey k) s =
      .next { s with state := addRoundKey s.state s.rk[k.toNat], err := .none, done := true, seq := .idle } :=
  exec_state_command hs (by simp [commandChecks, hk, hv]) (commandEffect_addRoundKey hk s)

theorem runTransforms_encryptBlock : RunTransforms [.encryptBlock] fun rom rk p => encrypt rom p rk :=
  fun _ hs hv => runCommands_cons (exec_encryptBlock hs hv)

theorem runTransforms_decryptBlock : RunTransforms [.decryptBlock] fun rom rk c => decrypt rom c rk :=
  fun _ hs hv => runCommands_cons (exec_decryptBlock hs hv)

/-- Round key k of RK, with its index in the command word. -/
theorem runTransforms_addRoundKey (k : Fin 11) :
    RunTransforms [.addRoundKey (BitVec.ofNat 4 k)] fun _ rk b => addRoundKey b rk[k] := by
  intro s hs hv
  have index : (BitVec.ofNat 4 k).toNat = k := Nat.mod_eq_of_lt (by omega)
  rw [runCommands_cons (exec_addRoundKey (by omega) hs hv)]
  simp only [index, runCommands_nil, Fin.getElem_fin]

/-! ## The one-shot commands -/

theorem runCommands_encryptBlock_decryptBlock {s : State} (hs : s.sboxOk = true) (hv : s.rkValid = true)
    (hrom : s.rom.pairOk = true) :
    ∃ t, runCommands [.encryptBlock, .decryptBlock] s = some t ∧ t.state = s.state :=
  ⟨_, runTransforms_encryptBlock.append runTransforms_decryptBlock s hs hv, decrypt_encrypt hrom s.rk s.state⟩

theorem encryptBlock_keyNotExpanded {s : State} (hs : s.sboxOk = true) (hv : s.rkValid = false) :
    FailsWith (exec .encryptBlock s) s .keyNotExpanded :=
  exec_fails hs (by simp [commandChecks, hv])

theorem decryptBlock_keyNotExpanded {s : State} (hs : s.sboxOk = true) (hv : s.rkValid = false) :
    FailsWith (exec .decryptBlock s) s .keyNotExpanded :=
  exec_fails hs (by simp [commandChecks, hv])

/-- Settles O25: with RK_VALID = 1 the one check passes, with RK_VALID = 0 it fails, and the two ciphers are inverse. -/
theorem blockCommands : Obligations.BlockCommands := by
  refine ⟨rfl, rfl, fun s hs hv => ⟨exec_encryptBlock hs hv, exec_decryptBlock hs hv⟩,
    fun s hs hv => ⟨encryptBlock_keyNotExpanded hs hv, decryptBlock_keyNotExpanded hs hv⟩,
    fun s => runCommands_encryptBlock_decryptBlock, ?_, ?_⟩
  · decide +kernel
  · decide +kernel

/-! ## The ciphers round by round (spec/43_block_cipher.md R186) -/

theorem runTransforms_aesRound (k : Fin 11) :
    RunTransforms (aesRoundCommands (BitVec.ofNat 4 k)) fun rom rk b => encryptRound rom rk b k :=
  ((transforms_subBytes.run.append transforms_shiftRows.run).append transforms_mixColumns.run).append
    (runTransforms_addRoundKey k)

theorem runTransforms_aesInvRound (k : Fin 11) :
    RunTransforms (aesInvRoundCommands (BitVec.ofNat 4 k)) fun rom rk b => decryptRound rom rk b k :=
  (((runTransforms_addRoundKey k).append transforms_invMixColumns.run).append transforms_invShiftRows.run).append
    transforms_invSubBytes.run

theorem runTransforms_aesFinalRound :
    RunTransforms aesFinalRoundCommands fun rom rk b => addRoundKey (shiftRows (subBytes rom b)) rk[10] :=
  (transforms_subBytes.run.append transforms_shiftRows.run).append (runTransforms_addRoundKey 10)

theorem runTransforms_encryptByRounds : RunTransforms encryptByRounds fun rom rk p => encrypt rom p rk :=
  ((runTransforms_addRoundKey 0).append_flatMap runTransforms_aesRound middleRounds).append
    runTransforms_aesFinalRound

theorem runTransforms_decryptByRounds : RunTransforms decryptByRounds fun rom rk c => decrypt rom c rk :=
  ((((runTransforms_addRoundKey 10).append transforms_invShiftRows.run).append
    transforms_invSubBytes.run).append_flatMap runTransforms_aesInvRound middleRounds.reverse).append
    (runTransforms_addRoundKey 0)

/-- Settles O26: the round-by-round programs compute `encrypt` and `decrypt` of STATE, as the one-shot commands do. -/
theorem roundByRoundEqualsOneShot : Obligations.RoundByRoundEqualsOneShot :=
  fun s hs hv =>
    ⟨⟨_, exec_encryptBlock hs hv, runTransforms_encryptByRounds s hs hv⟩,
      ⟨_, exec_decryptBlock hs hv, runTransforms_decryptByRounds s hs hv⟩⟩

end Sys2Proof.Machine

/-! The modes: the counter block as a number, the CTR stream and CBC-MAC as functions of blocks, and the commands CTR_APPLY and CBC_MAC. -/

namespace Sys2Proof.Machine

/-! ## The counter block (spec/44_modes.md R201) -/

theorem getElem_counterBlock_upper (v : Nat) {i : Nat} (hi : i < 8) : (counterBlock v)[i] = 0 := by
  simp [counterBlock, hi]

theorem getElem_counterBlock_lower (v : Nat) {i : Nat} (hi : i < 8) :
    (counterBlock v)[8 + i].toNat = (v >>> (8 * (7 - i))) % 256 := by
  have index : 15 - (8 + i) = 7 - i := by omega
  simp [counterBlock, index]

/-- Byte k of a number joins the bytes above it. -/
theorem shiftRight_eq_mul_add_byte (v k : Nat) : 256 * v >>> (8 * (k + 1)) + (v >>> (8 * k)) % 256 = v >>> (8 * k) := by
  rw [Nat.mul_succ, Nat.shiftRight_add, Nat.shiftRight_eq_div_pow _ 8]
  exact Nat.div_add_mod _ 256

/-- The block read up to byte 8 + n, big-endian, is the counter without its low 8 - n bytes. -/
theorem bigEndian_take_counterBlock {v : Nat} (hv : v < 2 ^ 64) {n : Nat} (hn : n ≤ 8) :
    ((counterBlock v).toList.take (8 + n)).foldl (fun n b => 256 * n + b.toNat) 0 = v >>> (8 * (8 - n)) := by
  induction n with
  | zero =>
    have zeros : (counterBlock v).toList.take 8 = List.replicate 8 0 :=
      List.ext_getElem (by simp) fun i h _ => by
        have hi : i < 8 := h.trans_le (List.length_take_le 8 _)
        rw [List.getElem_take, Vector.getElem_toList, List.getElem_replicate, getElem_counterBlock_upper v hi]
    rw [Nat.add_zero, zeros, Nat.shiftRight_eq_div_pow, Nat.div_eq_of_lt hv]
    rfl
  | succ n ih =>
    have hlt : 8 + n < (counterBlock v).toList.length := by simp; omega
    have hk : 8 - n = 7 - n + 1 := by omega
    rw [← Nat.add_assoc, List.take_succ_eq_append_getElem hlt, List.foldl_append, ih (by omega), List.foldl_cons,
      List.foldl_nil, Vector.getElem_toList, getElem_counterBlock_lower v (by omega), hk, shiftRight_eq_mul_add_byte]
    congr 2
    omega

/-- Settles O28: the layout byte by byte, and the value as the last of the numbers that the bytes read so far give. -/
theorem counterBlockLayout : Obligations.CounterBlockLayout := by
  refine ⟨fun v i _ => ⟨getElem_counterBlock_upper v i.isLt, getElem_counterBlock_lower v i.isLt⟩, fun v hv => ?_⟩
  have whole := bigEndian_take_counterBlock hv (Nat.le_refl 8)
  rwa [List.take_of_length_le (Nat.le_of_eq Vector.length_toList), Nat.sub_self, Nat.mul_zero,
    Nat.shiftRight_zero] at whole

/-! ## Blocks under xor -/

theorem xor16_xor16_self (a b : Block) : xor16 (xor16 a b) b = a := addRoundKey_addRoundKey a b

theorem xor16_comm (a b : Block) : xor16 a b = xor16 b a := by
  simp only [xor16, BitVec.xor_comm]

theorem xor16_zero (a : Block) : xor16 a Block.zero = a := by
  ext i hi
  simp [xor16, Block.zero]

/-! ## The CTR stream (spec/44_modes.md R202, R204) -/

theorem blockCount_pad16 (n : Nat) : blockCount (pad16 n) = blockCount n := by
  rw [blockCount, pad16_of_mod (pad16_mod n), blockCount]

theorem ctrBlocks_ctrBlocks (rom : Rom) (rk : RoundKeys) (c : Nat) (bs : List Block) :
    ctrBlocks rom rk c (ctrBlocks rom rk c bs) = bs := by
  induction bs generalizing c with
  | nil => rfl
  | cons b bs ih => simp only [ctrBlocks, xor16_xor16_self, ih]

/-- The output of the CTR stream is made of whole blocks, so that the stream takes it in as the blocks it gave out. -/
theorem toBlocks_padMessage_ctrApply (rom : Rom) (m : List Byte) (rk : RoundKeys) (c : Nat) :
    toBlocks (blockCount (ctrApply rom m rk c).length) (padMessage (ctrApply rom m rk c)) =
      ctrBlocks rom rk c (toBlocks (blockCount m.length) (padMessage m)) := by
  rw [padMessage_of_mod (by rw [length_ctrApply, pad16_mod]), length_ctrApply, blockCount_pad16]
  simpa [ctrApply] using toBlocks_ofBlocks (ctrBlocks rom rk c (toBlocks (blockCount m.length) (padMessage m))) []

theorem ctrApply_ctrApply (rom : Rom) (m : List Byte) (rk : RoundKeys) (c : Nat) :
    ctrApply rom (ctrApply rom m rk c) rk c = padMessage m := by
  rw [ctrApply, toBlocks_padMessage_ctrApply, ctrBlocks_ctrBlocks,
    ofBlocks_toBlocks _ _ (by rw [length_padMessage, pad16_eq])]

/-- Settles O30: each block is xored twice with the same block, whatever the counter. -/
theorem ctrApplyIsInvolution : Obligations.CtrApplyIsInvolution :=
  fun rom m rk c _ => ctrApply_ctrApply rom m rk c

/-! ## CTR_APPLY (spec/44_modes.md R205) -/

/-- The overflow rule as the statements write it (spec/44_modes.md R203). -/
theorem counterOverflows_eq_false_iff (c nb : Nat) :
    counterOverflows c nb = false ↔ nb = 0 ∨ c + nb - 1 ≤ 2 ^ 64 - 1 := by
  simp only [counterOverflows, decide_eq_false_iff_not]
  omega

theorem firstError_eq_none_iff (checks : List (Bool × ErrCode)) :
    firstError checks = none ↔ ∀ c ∈ checks, c.1 = false := by
  induction checks with
  | nil => simp
  | cons c cs ih =>
    obtain ⟨fails, e⟩ := c
    cases fails <;> simp [ih]

theorem ctrApply_checks_pass_iff (s : State) :
    firstError (commandChecks .ctrApply s) = none ↔
      s.rkValid = true ∧ s.length ≤ s.bufBytes ∧ counterOverflows s.counter (blockCount s.length) = false := by
  rw [firstError_eq_none_iff]
  simp [commandChecks]

/-- A string written at the start of BUF with its length is the message. -/
theorem State.message_writeMessage_writeLen {s : State} (hb : s.buf.wf) {bs : List Byte} (h : bs.length < 2 ^ 32) :
    ((s.writeMessage bs).writeLen bs.length).message = bs := by
  have hlen : ((s.writeMessage bs).writeLen bs.length).length = bs.length := Nat.mod_eq_of_lt h
  apply List.ext_getElem
  · rw [State.length_message, hlen]
  · intro i _ hi
    simpa [State.message] using Memory.read_writeBytes_inside (i := 0) hb hi

/-- BUF_BYTES is a multiple of 16, so a message that fits in BUF still does when it is padded. -/
theorem State.pad16_length_le {s : State} (h : s.length ≤ s.bufBytes) : pad16 s.length ≤ s.bufBytes := by
  have := BufSize.bytes_mod s.bufSize
  unfold State.bufBytes pad16 at *
  omega

theorem State.pad16_length_lt {s : State} (h : s.length ≤ s.bufBytes) : pad16 s.length < 2 ^ 32 := by
  have := s.pad16_length_le h
  have := BufSize.bytes_bounds s.bufSize
  unfold State.bufBytes at *
  omega

/-- What CTR_APPLY leaves when its checks pass. -/
def State.afterCtrApply (s : State) : State :=
  ((s.writeMessage (ctrApply s.rom s.message s.rk s.counter)).writeLen (pad16 s.length)).complete .none

section ctrApply
variable {s : State}

theorem exec_ctrApply (hs : s.sboxOk = true) (hpass : firstError (commandChecks .ctrApply s) = none) :
    exec .ctrApply s = .next s.afterCtrApply := exec_runs hs hpass

theorem State.length_afterCtrApply (h : s.length ≤ s.bufBytes) : s.afterCtrApply.length = pad16 s.length :=
  Nat.mod_eq_of_lt (s.pad16_length_lt h)

theorem State.message_afterCtrApply (hb : s.buf.wf) (h : s.length ≤ s.bufBytes) :
    s.afterCtrApply.message = ctrApply s.rom s.message s.rk s.counter := by
  have hlen : (ctrApply s.rom s.message s.rk s.counter).length = pad16 s.length := by simp
  have hmsg := State.message_writeMessage_writeLen hb (hlen ▸ s.pad16_length_lt h)
  rwa [hlen] at hmsg

theorem State.read_afterCtrApply (hb : s.buf.wf) (n : Nat) :
    s.afterCtrApply.buf.read n =
      if n < pad16 s.length then (ctrApply s.rom s.message s.rk s.counter).getD n 0 else s.buf.read n := by
  have hread := State.read_writeMessage hb (ctrApply s.rom s.message s.rk s.counter) n
  rwa [length_ctrApply, State.length_message] at hread

theorem State.read_afterCtrApply_block (hb : s.buf.wf) {j : Nat} (hj : j < blockCount s.length) (i : Fin 16) :
    s.afterCtrApply.buf.read (16 * j + i.val) =
      (if 16 * j + i.val < s.len.toNat then s.buf.read (16 * j + i.val) else 0) ^^^
        (encrypt s.rom (counterBlock (s.counter + j)) s.rk)[i] := by
  have hin : 16 * j + i.val < pad16 s.length := by rw [pad16_eq]; omega
  rw [State.read_afterCtrApply hb, if_pos hin, getD_ctrApply _ _ _ _ _ _ (by rwa [State.length_message]),
    State.getD_message]
  rfl

/-- CTR_APPLY leaves a state in which its checks pass again: the padded length fits in BUF and has as many blocks. -/
theorem ctrApply_checks_pass_again (hpass : firstError (commandChecks .ctrApply s) = none) :
    firstError (commandChecks .ctrApply s.afterCtrApply) = none := by
  obtain ⟨hv, hl, hc⟩ := (ctrApply_checks_pass_iff s).1 hpass
  rw [ctrApply_checks_pass_iff, State.length_afterCtrApply hl, blockCount_pad16]
  exact ⟨hv, s.pad16_length_le hl, hc⟩

theorem runCommands_ctrApply_twice (hs : s.sboxOk = true)
    (hpass : firstError (commandChecks .ctrApply s) = none) :
    runCommands [.ctrApply, .ctrApply] s = some s.afterCtrApply.afterCtrApply := by
  rw [runCommands_cons (exec_ctrApply hs hpass),
    runCommands_cons (exec_ctrApply (s := s.afterCtrApply) hs (ctrApply_checks_pass_again hpass)), runCommands_nil]

theorem State.length_afterCtrApply_twice (h : s.length ≤ s.bufBytes) :
    s.afterCtrApply.afterCtrApply.length = pad16 s.length := by
  have hlen := State.length_afterCtrApply h
  have hle : s.afterCtrApply.length ≤ s.afterCtrApply.bufBytes := hlen ▸ s.pad16_length_le h
  rw [State.length_afterCtrApply hle, hlen, pad16_of_mod (pad16_mod _)]

/-- The second run reads what the first one wrote, so it writes the padded message. -/
theorem State.read_afterCtrApply_twice (hb : s.buf.wf) (h : s.length ≤ s.bufBytes) {n : Nat}
    (hn : n < pad16 s.length) :
    s.afterCtrApply.afterCtrApply.buf.read n = if n < s.len.toNat then s.buf.read n else 0 := by
  have hin : n < pad16 s.afterCtrApply.length := by
    rwa [State.length_afterCtrApply h, pad16_of_mod (pad16_mod _)]
  have hstream : ctrApply s.afterCtrApply.rom s.afterCtrApply.message s.afterCtrApply.rk s.afterCtrApply.counter =
      padMessage s.message := by
    rw [State.message_afterCtrApply hb h]
    exact ctrApply_ctrApply s.rom s.message s.rk s.counter
  rw [State.read_afterCtrApply (s := s.afterCtrApply) (Memory.wf_writeBytes hb), if_pos hin, hstream,
    getD_padMessage, State.getD_message]
  rfl

end ctrApply

/-- Settles O29: the checks one by one, then the bytes that one run and two runs leave. -/
theorem ctrApplyCommand : Obligations.CtrApplyCommand := by
  refine ⟨rfl, fun s nb C hs hnb hC => ?_⟩
  obtain rfl : nb = blockCount s.length := hnb.trans (blockCount_eq _).symm
  obtain rfl : C = s.counter := hC
  have hpass (hv : s.rkValid = true) (hl : s.length ≤ s.bufBytes)
      (hc : blockCount s.length = 0 ∨ s.counter + blockCount s.length - 1 ≤ 2 ^ 64 - 1) :
      firstError (commandChecks .ctrApply s) = none :=
    (ctrApply_checks_pass_iff s).2 ⟨hv, hl, (counterOverflows_eq_false_iff _ _).2 hc⟩
  rw [← pad16_eq]
  refine ⟨fun hv => ?_, fun hv (hl : s.length > s.bufBytes) => ?_, fun hv (hl : s.length ≤ s.bufBytes) h1 hc => ?_,
    fun hv hl hc hb => ?_, fun hv hl hc hb => ?_⟩
  · exact exec_fails hs (by simp [commandChecks, hv])
  · exact exec_fails hs (by simp [commandChecks, hv, hl])
  · have hover : counterOverflows s.counter (blockCount s.length) = true := decide_eq_true ⟨h1, hc⟩
    exact exec_fails hs (by simp [commandChecks, hv, hl, hover])
  · refine ⟨s.afterCtrApply, exec_ctrApply hs (hpass hv hl hc), rfl, State.length_afterCtrApply hl, fun n hn => ?_,
      fun j i hj => State.read_afterCtrApply_block hb hj i⟩
    rw [State.read_afterCtrApply hb, if_neg (by omega)]
  · exact ⟨_, runCommands_ctrApply_twice hs (hpass hv hl hc), rfl, State.length_afterCtrApply_twice hl,
      fun n => State.read_afterCtrApply_twice hb hl⟩

/-! ## CBC-MAC (spec/44_modes.md R210, R211, R214) -/

theorem cbcMac_nil (rom : Rom) (rk : RoundKeys) : cbcMac rom [] rk = Block.zero := rfl

theorem cbcMac_append_block (rom : Rom) (rk : RoundKeys) {m : List Byte} (h : m.length % 16 = 0) (b : Block) :
    cbcMac rom (m ++ b.toList) rk = encrypt rom (xor16 b (cbcMac rom m rk)) rk := by
  rw [cbcMac_append _ _ _ _ h, Vector.length_toList]
  simp [toBlocks, headBlock_toList]

theorem cbcMac_block (rom : Rom) (rk : RoundKeys) (b : Block) : cbcMac rom b.toList rk = encrypt rom b rk := by
  simpa [cbcMac_nil, xor16_zero] using cbcMac_append_block rom rk (m := []) rfl b

/-- Settles O31: the MAC of an appended block goes on from the MAC before it. -/
theorem cbcMacChains : Obligations.CbcMacChains :=
  fun rom rk => ⟨cbcMac_nil rom rk, fun _ b h => cbcMac_append_block rom rk h b⟩

/-- The chain over the same blocks from two MACs ends in two MACs: decryption and xor undo it, the last block first. -/
theorem cbcMac_chain_injective {rom : Rom} (h : rom.pairOk = true) (rk : RoundKeys) (bs : List Block) :
    Function.Injective fun a => bs.foldl (fun a b => encrypt rom (xor16 b a) rk) a := by
  apply Function.LeftInverse.injective (g := bs.reverse.foldl fun a b => xor16 (decrypt rom a rk) b)
  refine foldl_reverse_foldl (fun a b => ?_) bs
  rw [decrypt_encrypt h, xor16_comm b a, xor16_xor16_self]

theorem encrypt_injective {rom : Rom} (h : rom.pairOk = true) (rk : RoundKeys) :
    Function.Injective fun p => encrypt rom p rk := ((decryptInvertsEncrypt rom h).2 rk).injective

theorem cbcMac_append_block_inj {rom : Rom} (h : rom.pairOk = true) (rk : RoundKeys) {m : List Byte}
    (hm : m.length % 16 = 0) {b b' : Block} (heq : cbcMac rom (m ++ b.toList) rk = cbcMac rom (m ++ b'.toList) rk) :
    b = b' := by
  rw [cbcMac_append_block rom rk hm, cbcMac_append_block rom rk hm] at heq
  have hxor := encrypt_injective h rk heq
  rw [← xor16_xor16_self b (cbcMac rom m rk), hxor, xor16_xor16_self]

/-- Settles O33: the blocks that differ give different MACs, and the chain over the blocks after them keeps them apart. -/
theorem oneBlockChangesTheMac : Obligations.OneBlockChangesTheMac := by
  intro rom rk before after b b' h hbefore _ hne heq
  have whole (c : Block) : (before ++ c.toList).length % 16 = 0 := by simp [hbefore]
  rw [cbcMac_append _ _ _ _ (whole b), cbcMac_append _ _ _ _ (whole b')] at heq
  exact hne (cbcMac_append_block_inj h rk hbefore (cbcMac_chain_injective h rk _ heq))

/-! ## CBC_MAC (spec/44_modes.md R212) -/

theorem State.message_eq_map (s : State) : s.message = (List.range s.len.toNat).map s.buf.read := by
  simp [State.message, Memory.readBytes, State.length]

theorem State.message_of_len_16 {s : State} (h : s.len = 16) :
    s.message = (Vector.ofFn fun i : Fin 16 => s.buf.read i.val).toList := by
  rw [State.message_eq_map, h]
  exact List.ext_getElem (by simp) fun i _ _ => by simp

theorem State.message_of_len_32_zeros {s : State} (h : s.len = 32) (hz : ∀ n, n < 32 → s.buf.read n = 0) :
    s.message = Block.zero.toList ++ Block.zero.toList := by
  rw [State.message_eq_map, h, show Block.zero.toList ++ Block.zero.toList = List.replicate 32 0 from rfl]
  exact List.eq_replicate_iff.2 ⟨by simp, fun b hb => by
    obtain ⟨n, hn, rfl⟩ := List.mem_map.1 hb
    exact hz n (List.mem_range.1 hn)⟩

section cbcMac
variable {s : State} (hs : s.sboxOk = true) (hv : s.rkValid = true)
include hs hv

theorem exec_cbcMac (hl : s.length ≤ s.bufBytes) (hm : s.length % 16 = 0) :
    exec .cbcMac s = .next ((s.writeTag (cbcMac s.rom s.message s.rk)).complete .none) :=
  exec_runs hs (by simp [commandChecks, hv, hl, hm])

/-- Every part holds two blocks, so a message of at most two whole blocks passes the checks. -/
theorem exec_cbcMac_short {m : List Byte} (hmsg : s.message = m) (hl : m.length ≤ 32) (hm : m.length % 16 = 0) :
    ∃ t, exec .cbcMac s = .next t ∧ t.err = .none ∧ t.tag = cbcMac s.rom m s.rk := by
  subst hmsg
  rw [State.length_message] at hl hm
  exact ⟨_, exec_cbcMac hs hv (hl.trans (BufSize.bytes_bounds s.bufSize).1) hm, rfl, rfl⟩

end cbcMac

/-- Settles O32: the checks one by one, the MAC of the message, and the MACs of no block, one block and two zero blocks. -/
theorem cbcMacCommand : Obligations.CbcMacCommand := by
  refine ⟨rfl, fun s hs => ⟨fun hv => ?_, fun hv (hl : s.length > s.bufBytes) => ?_,
    fun hv (hl : s.length ≤ s.bufBytes) (hm : s.length % 16 ≠ 0) => ?_, fun hv hl hm => ?_, fun hv h0 => ?_,
    fun hv h16 => ?_, fun hv h32 hz => ?_⟩⟩
  · exact exec_fails hs (by simp [commandChecks, hv])
  · exact exec_fails hs (by simp [commandChecks, hv, hl])
  · exact exec_fails hs (by simp [commandChecks, hv, hl, hm])
  · rw [exec_cbcMac hs hv hl hm, State.message_eq_map]
    rfl
  · exact exec_cbcMac_short hs hv (m := []) (by simp [State.message_eq_map, h0]) (by simp) rfl
  · simpa only [cbcMac_block] using exec_cbcMac_short hs hv (State.message_of_len_16 h16) (by simp) (by simp)
  · have h := exec_cbcMac_short hs hv (State.message_of_len_32_zeros h32 hz) (by simp) (by simp)
    rwa [cbcMac_append_block _ _ (by simp), cbcMac_block, xor16_comm, xor16_zero] at h

end Sys2Proof.Machine

/-! The authenticated cipher: Seal and Open on byte strings, SEAL and OPEN on the machine, the round trip, the rejected bit flip, and what a rejected OPEN leaves. -/

namespace Sys2Proof.Machine

/-! ## Open as a comparison of the two parts of its string (spec/45_authenticated.md R233) -/

theorem toList_headBlock {l : List Byte} (h : l.length = 16) : (headBlock l).toList = l := by
  simpa [toBlocks, ofBlocks] using ofBlocks_toBlocks 1 l h

theorem openString_append (rom : Rom) (ct : List Byte) {rt : List Byte} (h : rt.length = 16) (key : Block) (c : Nat) :
    openString rom (ct ++ rt) key c =
      if (cbcMac rom ct (expand rom key)).toList = rt then some (ctrApply rom ct (expand rom key) c) else none := by
  have verdict : cbcMac rom ct (expand rom key) = headBlock rt ↔ (cbcMac rom ct (expand rom key)).toList = rt := by
    rw [← Vector.toList_inj, toList_headBlock h]
  rw [openString_eq _ _ _ _ ct.length (by rw [List.length_append, h]), List.take_left' rfl, List.drop_left' rfl]
  simp only [verdict]

theorem sealString_eq (rom : Rom) (pt : List Byte) (key : Block) (c : Nat) :
    sealString rom pt key c =
      ctrApply rom pt (expand rom key) c ++
        (cbcMac rom (ctrApply rom pt (expand rom key) c) (expand rom key)).toList := rfl

/-- The tag of a sealed string is that of its ciphertext, whatever the counter (spec/45_authenticated.md R242). -/
theorem openString_sealString (rom : Rom) (pt : List Byte) (key : Block) (c c' : Nat) :
    openString rom (sealString rom pt key c) key c' =
      some (ctrApply rom (ctrApply rom pt (expand rom key) c) (expand rom key) c') := by
  rw [sealString_eq, openString_append _ _ Vector.length_toList, if_pos rfl]

/-! ## The empty message and a wrong counter (spec/45_authenticated.md R239, R242) -/

theorem ctrApply_nil (rom : Rom) (rk : RoundKeys) (c : Nat) : ctrApply rom [] rk c = [] :=
  List.length_eq_zero_iff.mp (length_ctrApply rom [] rk c)

theorem sealString_nil (rom : Rom) (key : Block) (c : Nat) : sealString rom [] key c = List.replicate 16 0 := by
  rw [sealString_eq, ctrApply_nil, cbcMac_nil]
  rfl

theorem openString_zeros (rom : Rom) (key : Block) (c : Nat) :
    openString rom (List.replicate 16 0) key c = some [] := by
  rw [← sealString_nil rom key c, openString_sealString, ctrApply_nil, ctrApply_nil]

/-- The bytes of a counter block are the counter's, so they give it back. -/
theorem counterBlock_inj {c c' : Nat} (hc : c < 2 ^ 64) (hc' : c' < 2 ^ 64) (h : counterBlock c = counterBlock c') :
    c = c' := by
  obtain ⟨-, value⟩ := counterBlockLayout
  rw [← value c hc, h, value c' hc']

/-- The first block of the stream shows the encrypted counter block, and so the counter. -/
theorem ctrApply_counter_inj {rom : Rom} (h : rom.pairOk = true) {m : List Byte} (hm : m ≠ []) (rk : RoundKeys)
    {c c' : Nat} (hc : c < 2 ^ 64) (hc' : c' < 2 ^ 64) (heq : ctrApply rom m rk c = ctrApply rom m rk c') : c = c' := by
  have hpos : 0 < blockCount m.length := by
    have := List.length_pos_iff.mpr hm
    rw [blockCount_eq]
    omega
  have keystream : encrypt rom (counterBlock c) rk = encrypt rom (counterBlock c') rk := by
    refine Vector.ext fun i hi => ?_
    have hbyte := getD_ctrApply rom m rk c 0 ⟨i, hi⟩ hpos
    rw [heq, getD_ctrApply rom m rk c' 0 ⟨i, hi⟩ hpos] at hbyte
    exact ((BitVec.xor_right_inj _).mp hbyte).symm
  exact counterBlock_inj hc hc' (encrypt_injective h rk keystream)

/-- The padded plaintext is what the sealing counter gives, and another counter gives another stream. -/
theorem ctrApply_wrong_counter {rom : Rom} (h : rom.pairOk = true) {pt : List Byte} (hpt : pt ≠ []) (rk : RoundKeys)
    {c c' : Nat} (hc : c < 2 ^ 64) (hc' : c' < 2 ^ 64) (hne : c ≠ c') :
    ctrApply rom (ctrApply rom pt rk c) rk c' ≠ padMessage pt := by
  have hct : ctrApply rom pt rk c ≠ [] := by
    have := List.length_pos_iff.mpr hpt
    have := le_pad16 pt.length
    rw [← List.length_pos_iff, length_ctrApply]
    omega
  rw [← ctrApply_ctrApply rom pt rk c]
  exact fun heq => hne (ctrApply_counter_inj h hct rk hc' hc heq).symm

/-- Settles O38: Open of a sealed string compares a tag with itself, and two counters give two streams. -/
theorem tagCoversCiphertextOnly : Obligations.TagCoversCiphertextOnly :=
  fun rom key =>
    ⟨fun c => ⟨sealString_nil rom key c, openString_zeros rom key c⟩, fun pt c c' =>
      ⟨openString_sealString rom pt key c c', fun h hpt => ctrApply_wrong_counter h hpt (expand rom key)⟩⟩

/-! ## One changed byte of a sealed string (spec/45_authenticated.md R240) -/

theorem list_set_ne_self {l : List Byte} {i : Nat} (hi : i < l.length) {x : Byte} (hx : x ≠ l[i]) :
    l.set i x ≠ l :=
  fun heq => hx ((List.getElem_set_self (by simpa using hi)).symm.trans (List.getElem_of_eq heq _))

/-- The block of a string of whole blocks in which its byte i lies. -/
theorem exists_block_of_lt {m : List Byte} (hm : m.length % 16 = 0) {i : Nat} (hi : i < m.length) :
    ∃ (before : List Byte) (b : Block) (after : List Byte),
      before.length = 16 * (i / 16) ∧ after.length % 16 = 0 ∧ m = before ++ b.toList ++ after := by
  refine ⟨m.take (16 * (i / 16)), headBlock ((m.drop (16 * (i / 16))).take 16), m.drop (16 * (i / 16) + 16),
    ?_, ?_, ?_⟩
  · rw [List.length_take]
    omega
  · rw [List.length_drop]
    omega
  · rw [toList_headBlock (by rw [List.length_take, List.length_drop]; omega), List.append_assoc, ← List.drop_drop,
      List.take_append_drop, List.take_append_drop]

/-- One changed byte is one changed block. -/
theorem cbcMac_set_ne {rom : Rom} (h : rom.pairOk = true) (rk : RoundKeys) {m : List Byte} (hm : m.length % 16 = 0)
    {i : Nat} (hi : i < m.length) {x : Byte} (hx : x ≠ m[i]) : cbcMac rom (m.set i x) rk ≠ cbcMac rom m rk := by
  obtain ⟨before, b, after, hbefore, hafter, rfl⟩ := exists_block_of_lt hm hi
  have hlt : i - before.length < 16 := by omega
  have hset : (before ++ b.toList ++ after).set i x =
      before ++ (b.set (i - before.length) x).toList ++ after := by
    rw [List.set_append_left _ _ (by simp; omega), List.set_append_right _ _ (by omega), Vector.toList_set]
  have hne : b.set (i - before.length) x ≠ b := by
    intro heq
    refine list_set_ne_self hi hx ?_
    rw [hset, heq]
  rw [hset]
  exact oneBlockChangesTheMac rom rk before after _ b h (by omega) hafter hne

/-- The two cases of R240: a changed ciphertext has another tag, and a changed tag is not the ciphertext's. -/
theorem openString_set_of_sealed {rom : Rom} (h : rom.pairOk = true) {pt str : List Byte} {key : Block} {c : Nat}
    (hstr : str = sealString rom pt key c) {i : Nat} (hi : i < str.length) {x : Byte} (hx : x ≠ str[i]) (c' : Nat) :
    openString rom (str.set i x) key c' = none := by
  obtain ⟨ct, hmod, rfl⟩ : ∃ ct : List Byte, ct.length % 16 = 0 ∧
      str = ct ++ (cbcMac rom ct (expand rom key)).toList :=
    ⟨_, by rw [length_ctrApply, pad16_mod], hstr.trans (sealString_eq rom pt key c)⟩
  rw [List.set_append]
  split
  case isTrue hlt =>
    rw [List.getElem_append_left hlt] at hx
    rw [openString_append _ _ Vector.length_toList, if_neg]
    exact fun heq => cbcMac_set_ne h (expand rom key) hmod hlt hx (Vector.toList_inj.mp heq)
  case isFalse hge =>
    rw [List.getElem_append_right (by omega)] at hx
    rw [openString_append _ _ (by simp), if_neg]
    exact fun heq => list_set_ne_self _ hx heq.symm

/-! ## Commands that succeed -/

theorem firstError_ne {checks : List (Bool × ErrCode)} {e : ErrCode} (h : ∀ c ∈ checks, c.2 ≠ e) :
    firstError checks ≠ some e := by
  induction checks with
  | nil => simp
  | cons c cs ih =>
    obtain ⟨hc, hcs⟩ := List.forall_mem_cons.mp h
    obtain ⟨fails, e'⟩ := c
    cases fails
    · simpa using ih hcs
    · simpa using hc

theorem firstError_commandChecks_ne_none_code (i : Instr) (s : State) :
    firstError (commandChecks i s) ≠ some .none := by
  apply firstError_ne
  cases i with
  | addRoundKey k => by_cases h : k.toNat ≤ 10 <;> simp [commandChecks, h]
  | _ => simp [commandChecks]

/-- A command that ends without an error has passed SBOX_OK and its checks. -/
theorem exec_succeeds {i : Instr} {s t : State} (h : exec i s = .next t) (herr : t.err = .none) :
    s.sboxOk = true ∧ firstError (commandChecks i s) = none := by
  rcases exec_cases h with ⟨-, rfl⟩ | ⟨-, e, he, rfl⟩ | ⟨hs, hpass, -⟩
  · cases herr
  · cases herr
    exact absurd he (firstError_commandChecks_ne_none_code i s)
  · exact ⟨hs, hpass⟩

/-! ## SEAL (spec/45_authenticated.md R230) -/

theorem sealMsg_checks_pass_iff (s : State) :
    firstError (commandChecks .sealMsg s) = none ↔
      s.length ≤ s.bufBytes - 16 ∧ counterOverflows s.counter (blockCount s.length) = false := by
  rw [firstError_eq_none_iff]
  simp [commandChecks]

/-- The length check leaves room for the padding and the tag, since BUF_BYTES is a multiple of 16. -/
theorem State.pad16_length_add_le {s : State} (h : s.length ≤ s.bufBytes - 16) :
    pad16 s.length + 16 ≤ s.bufBytes := by
  have := BufSize.bytes_mod s.bufSize
  have := BufSize.bytes_bounds s.bufSize
  unfold State.bufBytes pad16 at *
  omega

/-- BUF_BYTES is far below what LEN can hold. -/
theorem State.lt_two_pow_of_le_bufBytes {s : State} {n : Nat} (h : n ≤ s.bufBytes) : n < 2 ^ 32 := by
  have := BufSize.bytes_bounds s.bufSize
  unfold State.bufBytes at h
  omega

/-- What SEAL leaves when its checks pass. -/
def State.afterSeal (s : State) : State :=
  (((s.deriveRoundKeys.writeMessage (sealString s.rom s.message s.key s.counter)).writeTag
    (sealParts s.rom s.message s.key s.counter).2).writeLen (pad16 s.length + 16)).complete .none

section sealing
variable {s : State}

theorem exec_sealMsg (hs : s.sboxOk = true) (hpass : firstError (commandChecks .sealMsg s) = none) :
    exec .sealMsg s = .next s.afterSeal := exec_runs hs hpass

theorem exec_sealMsg_succeeds {t : State} (h : exec .sealMsg s = .next t) (herr : t.err = .none) :
    s.sboxOk = true ∧ firstError (commandChecks .sealMsg s) = none ∧ t = s.afterSeal := by
  obtain ⟨hs, hpass⟩ := exec_succeeds h herr
  rw [exec_sealMsg hs hpass] at h
  exact ⟨hs, hpass, (Host.Outcome.next.inj h).symm⟩

theorem State.length_afterSeal (h : s.length ≤ s.bufBytes - 16) : s.afterSeal.length = pad16 s.length + 16 :=
  Nat.mod_eq_of_lt (State.lt_two_pow_of_le_bufBytes (State.pad16_length_add_le h))

theorem State.message_afterSeal (hb : s.buf.wf) (h : s.length ≤ s.bufBytes - 16) :
    s.afterSeal.message = sealString s.rom s.message s.key s.counter := by
  have hlen : (sealString s.rom s.message s.key s.counter).length = pad16 s.length + 16 := by
    rw [length_sealString, State.length_message]
  have hmsg := State.message_writeMessage_writeLen (s := s.deriveRoundKeys) hb
    (hlen ▸ State.lt_two_pow_of_le_bufBytes (State.pad16_length_add_le h))
  rwa [hlen] at hmsg

theorem State.read_afterSeal (hb : s.buf.wf) (n : Nat) :
    s.afterSeal.buf.read n =
      if n < pad16 s.length + 16 then (sealString s.rom s.message s.key s.counter).getD n 0 else s.buf.read n := by
  have hread := State.read_writeMessage (s := s.deriveRoundKeys) hb (sealString s.rom s.message s.key s.counter) n
  rwa [length_sealString, State.length_message] at hread

/-- The ciphertext in BUF, block by block. -/
theorem State.read_afterSeal_block (hb : s.buf.wf) {j : Nat} (hj : j < blockCount s.length) (i : Fin 16) :
    s.afterSeal.buf.read (16 * j + i.val) =
      (if 16 * j + i.val < s.len.toNat then s.buf.read (16 * j + i.val) else 0) ^^^
        (encrypt s.rom (counterBlock (s.counter + j)) (expand s.rom s.key))[i] := by
  have hin : 16 * j + i.val < pad16 s.length := by rw [pad16_eq]; omega
  rw [State.read_afterSeal hb, if_pos (by omega), sealString_eq,
    List.getD_append _ _ _ _ (by rwa [length_ctrApply, State.length_message]),
    getD_ctrApply _ _ _ _ _ _ (by rwa [State.length_message]), State.getD_message]
  rfl

/-- The tag in BUF, right behind the ciphertext. -/
theorem State.read_afterSeal_tag (hb : s.buf.wf) (i : Fin 16) :
    s.afterSeal.buf.read (pad16 s.length + i.val) = s.afterSeal.tag[i] := by
  have hct : (ctrApply s.rom s.message (expand s.rom s.key) s.counter).length = pad16 s.length := by
    rw [length_ctrApply, State.length_message]
  rw [State.read_afterSeal hb, if_pos (by omega), sealString_eq, List.getD_append_right _ _ _ _ (by omega), hct,
    Nat.add_sub_cancel_left, List.getD_eq_getElem _ _ (by simp)]
  rfl

/-- A message up to some point, as the statements write it. -/
theorem State.take_message {n : Nat} (h : n ≤ s.length) : s.message.take n = (List.range n).map s.buf.read := by
  rw [State.message_eq_map, ← List.map_take, List.take_range, Nat.min_eq_left (show n ≤ s.len.toNat from h)]

theorem State.tag_afterSeal (hb : s.buf.wf) (h : s.length ≤ s.bufBytes - 16) :
    s.afterSeal.tag =
      cbcMac s.rom ((List.range (pad16 s.length)).map s.afterSeal.buf.read) (expand s.rom s.key) := by
  rw [← State.take_message (by rw [State.length_afterSeal h]; omega), State.message_afterSeal hb h, sealString_eq,
    List.take_left' (by rw [length_ctrApply, State.length_message])]
  rfl

/-- SEAL of the empty message (spec/45_authenticated.md R239). -/
theorem State.afterSeal_of_len_zero (h : s.len = 0) : s.afterSeal.len = 16 ∧ s.afterSeal.tag = Block.zero := by
  have hlen : s.length = 0 := congrArg BitVec.toNat h
  have hmsg : s.message = [] := List.length_eq_zero_iff.mp (by rw [State.length_message, hlen])
  refine ⟨?_, ?_⟩
  · show BitVec.ofNat 32 (pad16 s.length + 16) = 16
    rw [hlen]
    rfl
  · show cbcMac s.rom (ctrApply s.rom s.message _ _) _ = Block.zero
    rw [hmsg, ctrApply_nil, cbcMac_nil]

end sealing

theorem counterOverflows_eq_true {c nb : Nat} (h1 : nb ≥ 1) (h : c + nb - 1 > 2 ^ 64 - 1) :
    counterOverflows c nb = true := decide_eq_true ⟨h1, h⟩

/-- Settles O34: the checks one by one, then the sealed string byte by byte. -/
theorem sealCommand : Obligations.SealCommand := by
  refine ⟨rfl, fun s nb C hs hnb hC => ?_⟩
  obtain rfl : nb = blockCount s.length := hnb.trans (blockCount_eq _).symm
  obtain rfl : C = s.counter := hC
  rw [← pad16_eq]
  refine ⟨fun (hl : s.length > s.bufBytes - 16) => ?_, fun (hl : s.length ≤ s.bufBytes - 16) h1 hc => ?_,
    fun hl hc hb => ?_⟩
  · exact exec_fails hs (by simp [commandChecks, hl])
  · exact exec_fails hs (by simp [commandChecks, hl, counterOverflows_eq_true h1 hc])
  · refine ⟨s.afterSeal,
      exec_sealMsg hs ((sealMsg_checks_pass_iff s).mpr ⟨hl, (counterOverflows_eq_false_iff _ _).mpr hc⟩), rfl,
      State.length_afterSeal hl, fun n hn => ?_, fun j i hj => State.read_afterSeal_block hb hj i,
      State.tag_afterSeal hb hl, State.read_afterSeal_tag hb, State.afterSeal_of_len_zero⟩
    rw [State.read_afterSeal hb, if_neg (by omega)]

/-! ## OPEN (spec/45_authenticated.md R234, R235) -/

theorem openMsg_checks_pass_iff (s : State) :
    firstError (commandChecks .openMsg s) = none ↔
      s.length ≤ s.bufBytes ∧ (16 ≤ s.length ∧ s.length % 16 = 0) ∧
        counterOverflows s.counter ((s.length - 16) / 16) = false := by
  have whole : 16 ≤ s.length ∧ s.length % 16 = 0 ↔ 16 ≤ s.length ∧ (s.length - 16) % 16 = 0 := by omega
  rw [firstError_eq_none_iff, whole]
  simp [commandChecks]

/-- The tag OPEN computes from the ciphertext. -/
def State.expectedTag (s : State) : Block :=
  cbcMac s.rom (s.message.take (s.length - 16)) (expand s.rom s.key)

/-- The plaintext OPEN computes from the ciphertext once the tag is verified. -/
def State.opened (s : State) : List Byte :=
  ctrApply s.rom (s.message.take (s.length - 16)) (expand s.rom s.key) s.counter

/-- What OPEN leaves when it has verified the tag and computed the plaintext pt. -/
def State.afterOpen (s : State) (pt : List Byte) : State :=
  ((s.deriveRoundKeys.writeMessage pt).writeLen (s.length - 16)).complete .none

section opening
variable {s : State}

theorem exec_openMsg_tampered (hs : s.sboxOk = true) (hpass : firstError (commandChecks .openMsg s) = none)
    (hopen : openString s.rom s.message s.key s.counter = none) :
    exec .openMsg s = .next (s.deriveRoundKeys.complete .tamperedCiphertext) := by
  rw [exec_runs hs hpass, commandEffect_openMsg_tampered hopen]

theorem exec_openMsg_verified (hs : s.sboxOk = true) (hpass : firstError (commandChecks .openMsg s) = none)
    {pt : List Byte} (hopen : openString s.rom s.message s.key s.counter = some pt) :
    exec .openMsg s = .next (s.afterOpen pt) := by
  rw [exec_runs hs hpass, commandEffect_openMsg_verified hopen]
  rfl

theorem State.openString_message (h : 16 ≤ s.length) :
    openString s.rom s.message s.key s.counter =
      if s.expectedTag.toList = s.message.drop (s.length - 16) then some s.opened else none := by
  have hopen := openString_append s.rom (s.message.take (s.length - 16))
    (rt := s.message.drop (s.length - 16)) (by rw [List.length_drop, State.length_message]; omega) s.key s.counter
  rwa [List.take_append_drop] at hopen

/-- The tag check of OPEN, byte by byte (spec/45_authenticated.md R236). -/
theorem State.expectedTag_eq_drop_message_iff (h : 16 ≤ s.length) :
    s.expectedTag.toList = s.message.drop (s.length - 16) ↔
      ∀ i : Fin 16, s.expectedTag[i] = s.buf.read (s.length - 16 + i.val) := by
  have hlen : s.length - (s.length - 16) = 16 := by omega
  rw [List.ext_getElem_iff]
  simp [State.message, hlen, Fin.forall_iff]

theorem exec_openMsg_of_tag_ne (hs : s.sboxOk = true) (hpass : firstError (commandChecks .openMsg s) = none)
    (htag : ∃ i : Fin 16, s.expectedTag[i] ≠ s.buf.read (s.length - 16 + i.val)) :
    exec .openMsg s = .next (s.deriveRoundKeys.complete .tamperedCiphertext) := by
  obtain ⟨-, ⟨h16, -⟩, -⟩ := (openMsg_checks_pass_iff s).mp hpass
  obtain ⟨i, hne⟩ := htag
  have htags : s.expectedTag.toList ≠ s.message.drop (s.length - 16) :=
    fun heq => hne ((State.expectedTag_eq_drop_message_iff h16).mp heq i)
  exact exec_openMsg_tampered hs hpass ((State.openString_message h16).trans (if_neg htags))

theorem exec_openMsg_of_tag_eq (hs : s.sboxOk = true) (hpass : firstError (commandChecks .openMsg s) = none)
    (htag : ∀ i : Fin 16, s.expectedTag[i] = s.buf.read (s.length - 16 + i.val)) :
    exec .openMsg s = .next (s.afterOpen s.opened) := by
  obtain ⟨-, ⟨h16, -⟩, -⟩ := (openMsg_checks_pass_iff s).mp hpass
  have htags := (State.expectedTag_eq_drop_message_iff h16).mpr htag
  exact exec_openMsg_verified hs hpass ((State.openString_message h16).trans (if_pos htags))

theorem State.length_afterOpen (h : s.length ≤ s.bufBytes) (pt : List Byte) :
    (s.afterOpen pt).length = s.length - 16 :=
  Nat.mod_eq_of_lt (State.lt_two_pow_of_le_bufBytes (s := s) (by omega))

theorem State.read_afterOpen (hb : s.buf.wf) (pt : List Byte) (n : Nat) :
    (s.afterOpen pt).buf.read n = if n < pt.length then pt.getD n 0 else s.buf.read n :=
  State.read_writeMessage (s := s.deriveRoundKeys) hb pt n

theorem State.length_opened (h : s.length % 16 = 0) : s.opened.length = s.length - 16 := by
  rw [State.opened, length_ctrApply, List.length_take, State.length_message, Nat.min_eq_left (Nat.sub_le _ _),
    pad16_of_mod (by omega)]

/-- The plaintext in BUF, block by block. -/
theorem State.read_afterOpen_block (hb : s.buf.wf) (h : s.length % 16 = 0) {j : Nat} (hj : j < (s.length - 16) / 16)
    (i : Fin 16) :
    (s.afterOpen s.opened).buf.read (16 * j + i.val) =
      s.buf.read (16 * j + i.val) ^^^ (encrypt s.rom (counterBlock (s.counter + j)) (expand s.rom s.key))[i] := by
  have hin : 16 * j + i.val < s.length - 16 := by omega
  have hct : (s.message.take (s.length - 16)).length = s.length - 16 := by simp
  rw [State.read_afterOpen hb, State.length_opened h, if_pos hin, State.opened,
    getD_ctrApply _ _ _ _ _ _ (by rw [hct, blockCount_eq]; omega), List.getD_eq_getElem _ _ (by omega)]
  simp [State.message]

theorem State.expectedTag_eq_range :
    s.expectedTag = cbcMac s.rom ((List.range (s.len.toNat - 16)).map s.buf.read) (expand s.rom s.key) := by
  rw [State.expectedTag, State.take_message (Nat.sub_le _ _)]
  rfl

/-! A string of 16 bytes is a tag alone (spec/45_authenticated.md R239). -/

theorem openMsg_checks_pass_of_len_16 (h : s.len = 16) : firstError (commandChecks .openMsg s) = none := by
  have hlen : s.length = 16 := congrArg BitVec.toNat h
  have hsize : 32 ≤ s.bufBytes := (BufSize.bytes_bounds s.bufSize).1
  rw [openMsg_checks_pass_iff, hlen]
  exact ⟨by omega, ⟨by omega, by omega⟩, (counterOverflows_eq_false_iff _ _).mpr (.inl rfl)⟩

theorem State.expectedTag_of_len_16 (h : s.len = 16) : s.expectedTag = Block.zero := by
  rw [State.expectedTag_eq_range, h]
  exact cbcMac_nil _ _

theorem exec_openMsg_zeros (hs : s.sboxOk = true) (h : s.len = 16) (hz : ∀ i, i < 16 → s.buf.read i = 0) :
    exec .openMsg s = .next (s.afterOpen s.opened) := by
  have hlen : s.length = 16 := congrArg BitVec.toNat h
  refine exec_openMsg_of_tag_eq hs (openMsg_checks_pass_of_len_16 h) fun i => ?_
  rw [State.expectedTag_of_len_16 h, hlen, Nat.sub_self, Nat.zero_add, hz _ i.isLt]
  simp [Block.zero]

theorem exec_openMsg_not_zeros (hs : s.sboxOk = true) (h : s.len = 16) (hz : ∃ i, i < 16 ∧ s.buf.read i ≠ 0) :
    exec .openMsg s = .next (s.deriveRoundKeys.complete .tamperedCiphertext) := by
  have hlen : s.length = 16 := congrArg BitVec.toNat h
  obtain ⟨i, hi, hne⟩ := hz
  refine exec_openMsg_of_tag_ne hs (openMsg_checks_pass_of_len_16 h) ⟨⟨i, hi⟩, ?_⟩
  rw [State.expectedTag_of_len_16 h, hlen, Nat.sub_self, Nat.zero_add]
  simpa [Block.zero] using hne.symm

end opening

/-- Settles O35: the checks one by one, both verdicts of the tag check, and the string that is a tag alone. -/
theorem openCommand : Obligations.OpenCommand := by
  refine ⟨rfl, fun s nb C et hs hnb hC het => ?_⟩
  obtain rfl : nb = (s.length - 16) / 16 := hnb
  obtain rfl : C = s.counter := hC
  obtain rfl : et = s.expectedTag := het.trans State.expectedTag_eq_range.symm
  have hpass (hl : s.length ≤ s.bufBytes) (h16 : 16 ≤ s.length) (hm : s.length % 16 = 0)
      (hc : (s.length - 16) / 16 = 0 ∨ s.counter + (s.length - 16) / 16 - 1 ≤ 2 ^ 64 - 1) :
      firstError (commandChecks .openMsg s) = none :=
    (openMsg_checks_pass_iff s).mpr ⟨hl, ⟨h16, hm⟩, (counterOverflows_eq_false_iff _ _).mpr hc⟩
  have whole (h16 : 16 ≤ s.length) (hm : s.length % 16 = 0) : 16 * ((s.length - 16) / 16) = s.length - 16 := by omega
  refine ⟨fun (hl : s.length > s.bufBytes) => ?_,
    fun (hl : s.length ≤ s.bufBytes) (hm : s.length < 16 ∨ (s.length - 16) % 16 ≠ 0) => ?_,
    fun (hl : s.length ≤ s.bufBytes) (h16 : 16 ≤ s.length) (hm : s.length % 16 = 0) h1 hc => ?_,
    fun hl h16 hm hc htag => ?_, fun hl h16 hm hc htag hb => ?_, fun h hz => ?_, fun h hz => ?_⟩
  · exact exec_fails hs (by simp [commandChecks, hl])
  · exact exec_fails hs (by simp [commandChecks, hl, hm])
  · have hm' : (s.length - 16) % 16 = 0 := by omega
    exact exec_fails hs
      (by simp [commandChecks, Nat.not_lt.mpr hl, Nat.not_lt.mpr h16, hm', counterOverflows_eq_true h1 hc])
  · rw [whole h16 hm] at htag
    exact exec_openMsg_of_tag_ne hs (hpass hl h16 hm hc) htag
  · rw [whole h16 hm] at htag ⊢
    refine ⟨_, exec_openMsg_of_tag_eq hs (hpass hl h16 hm hc) htag, rfl, State.length_afterOpen hl _, fun n hn => ?_,
      fun j i hj => State.read_afterOpen_block hb hm hj i⟩
    rw [State.read_afterOpen hb, State.length_opened hm, if_neg (by omega)]
  · have hlen : s.length = 16 := congrArg BitVec.toNat h
    refine ⟨_, exec_openMsg_zeros hs h hz, rfl, ?_⟩
    show BitVec.ofNat 32 (s.length - 16) = 0
    rw [hlen]
    rfl
  · exact ⟨_, exec_openMsg_not_zeros hs h hz, rfl⟩

/-! ## OPEN after SEAL (spec/45_authenticated.md R241) -/

section sealed
variable {s : State} (hb : s.buf.wf) (hpass : firstError (commandChecks .sealMsg s) = none)

include hpass in
theorem openMsg_checks_pass_after_seal : firstError (commandChecks .openMsg s.afterSeal) = none := by
  obtain ⟨hl, hc⟩ := (sealMsg_checks_pass_iff s).mp hpass
  have hmod := pad16_mod s.length
  rw [openMsg_checks_pass_iff, State.length_afterSeal hl, Nat.add_sub_cancel]
  exact ⟨State.pad16_length_add_le hl, ⟨by omega, by omega⟩, hc⟩

include hb hpass in
theorem openString_afterSeal :
    openString s.afterSeal.rom s.afterSeal.message s.afterSeal.key s.afterSeal.counter =
      some (padMessage s.message) := by
  obtain ⟨hl, -⟩ := (sealMsg_checks_pass_iff s).mp hpass
  rw [State.message_afterSeal hb hl, ← ctrApply_ctrApply s.rom s.message (expand s.rom s.key) s.counter]
  exact openString_sealString s.rom s.message s.key s.counter s.counter

end sealed

/-- Settles O36: OPEN verifies the tag SEAL wrote and applies the stream a second time. -/
theorem openUndoesSeal : Obligations.OpenUndoesSeal := by
  intro s t hb h herr
  obtain ⟨hs, hpass, rfl⟩ := exec_sealMsg_succeeds h herr
  obtain ⟨hl, -⟩ := (sealMsg_checks_pass_iff s).mp hpass
  have hpass' := openMsg_checks_pass_after_seal hpass
  obtain ⟨hl', -, -⟩ := (openMsg_checks_pass_iff _).mp hpass'
  have hread (n : Nat) : (s.afterSeal.afterOpen (padMessage s.message)).buf.read n =
      if n < pad16 s.length then if n < s.length then s.buf.read n else 0 else s.afterSeal.buf.read n := by
    rw [State.read_afterOpen (Memory.wf_writeBytes hb), length_padMessage, State.length_message, getD_padMessage,
      State.getD_message]
  have hle := le_pad16 s.length
  refine ⟨_, exec_openMsg_verified (s := s.afterSeal) hs hpass' (openString_afterSeal hb hpass), rfl, ?_,
    fun i (hi : i < s.length) => ?_, fun i (hi : s.length ≤ i) (hi' : i < pad16 s.length) => ?_,
    fun i (hi : pad16 s.length ≤ i) => ?_⟩
  · have hlen := State.length_afterOpen hl' (padMessage s.message)
    rwa [State.length_afterSeal hl, Nat.add_sub_cancel] at hlen
  · rw [hread, if_pos (by omega), if_pos hi]
  · rw [hread, if_pos hi', if_neg (by omega)]
  · rw [hread, if_neg (by omega)]

/-! ## One flipped bit (spec/45_authenticated.md R240) -/

theorem Memory.readBytes_write {m : Memory} (hm : m.wf) (i n : Nat) (b : Byte) :
    (m.write i b).readBytes 0 n = (m.readBytes 0 n).set i b := by
  refine List.ext_getElem (by simp) fun j _ _ => ?_
  rw [Memory.getElem_readBytes, Nat.zero_add, List.getElem_set]
  split
  case isTrue h => rw [← h, Memory.read_write_self hm]
  case isFalse h => rw [Memory.read_write_ne (Ne.symm h), Memory.getElem_readBytes, Nat.zero_add]

theorem State.message_write {s : State} (hb : s.buf.wf) (i : Nat) (x : Byte) :
    State.message { s with buf := s.buf.write i x } = s.message.set i x := Memory.readBytes_write hb i _ x

theorem State.getElem_message (s : State) {i : Nat} (h : i < s.message.length) : s.message[i] = s.buf.read i := by
  simp [State.message]

theorem xor_bit_ne_self (x : Byte) (b : Fin 8) : x ^^^ (1 <<< b.val) ≠ x := by
  have bit : ∀ b : Fin 8, (1 <<< b.val : Nat) ≠ (0 : Byte) := by decide
  exact fun h => bit b (xor_left_eq_self_iff.mp h)

/-- Settles O37: the flipped string is the sealed string with one byte set, which Open rejects. -/
theorem flippedBitIsRejected : Obligations.FlippedBitIsRejected := by
  rintro s t v i b hb hrom h herr hi rfl
  obtain ⟨hs, hpass, rfl⟩ := exec_sealMsg_succeeds h herr
  obtain ⟨hl, -⟩ := (sealMsg_checks_pass_iff s).mp hpass
  refine ⟨_, exec_openMsg_tampered hs (openMsg_checks_pass_after_seal hpass) ?_, rfl, fun _ => rfl, rfl, rfl⟩
  rw [State.message_write (Memory.wf_writeBytes hb)]
  refine openString_set_of_sealed hrom (State.message_afterSeal hb hl) (by rwa [State.length_message]) ?_ _
  rw [State.getElem_message]
  exact xor_bit_ne_self _ b

/-! ## A rejected OPEN (spec/45_authenticated.md R235, R237, R238) -/

/-- The one outcome of OPEN that writes BUF or LEN ends without an error. -/
theorem exec_openMsg_rejected_frame {s t : State} (h : exec .openMsg s = .next t) (herr : t.err = .tamperedCiphertext) :
    t.buf = s.buf ∧ t.state = s.state ∧ t.len = s.len ∧ t.tag = s.tag := by
  rcases exec_cases h with ⟨-, rfl⟩ | ⟨-, e, -, rfl⟩ | ⟨-, -, rfl⟩
  · exact ⟨rfl, rfl, rfl, rfl⟩
  · exact ⟨rfl, rfl, rfl, rfl⟩
  · cases hopen : openString s.rom s.message s.key s.counter with
    | none =>
      rw [commandEffect_openMsg_tampered hopen]
      exact ⟨rfl, rfl, rfl, rfl⟩
    | some pt =>
      rw [commandEffect_openMsg_verified hopen] at herr
      cases herr

/-- A word that is not readable while BUSY = 1 answers 0 (spec/70_reset_and_hazards.md R313). -/
theorem State.busRead_of_busy {s : State} {a : Addr} {x : Target} (ha : s.target a = some x) (hb : s.busy = true)
    (hx : x.readableWhileBusy = false) : s.busRead a = .ok 0 := by
  simp [State.busRead, ha, hb, hx]

/-- Settles O39: the traffic reaches nothing that OPEN reads or keeps, and a rejected OPEN writes none of it. -/
theorem rejectedOpenReleasesNothing : Obligations.RejectedOpenReleasesNothing := by
  rintro s u t rs hseq rfl hturn herr
  have hide : hideBusyTraffic (runBus rs s) = hideBusyTraffic s := hideBusyTraffic_runBus (State.busy_of_run hseq) rs
  have hseq' : (runBus rs s).seq = .run (encode .openMsg) := (congrArg State.seq hide).trans hseq
  have hexec : exec .openMsg (runBus rs s) = .next t := (sequencerTurn_of_run hseq').symm.trans hturn
  obtain ⟨hbuf, hstate, hlen, htag⟩ := exec_openMsg_rejected_frame hexec herr
  refine ⟨hbuf.trans (congrArg State.buf hide :), hstate.trans (congrArg State.state hide :),
    hlen.trans (congrArg State.len hide :), htag.trans (congrArg State.tag hide :), fun a x ha hx => ?_⟩
  have htarget : (runBus rs s).target a = s.target a := (congrArg (fun u => u.target a) hide :)
  exact State.busRead_of_busy (htarget.trans ha) (State.busy_of_run hseq') hx

end Sys2Proof.Machine

/-! Exceptions: acceptance of a CMD write, what an error leaves alone, failed tables, and the interrupt level. -/

namespace Sys2Proof.Machine

/-! ## Writes that reach a word, and acceptance (spec/60_exceptions.md R261, spec/70_reset_and_hazards.md R311, R312) -/

theorem State.busWrite_of_writable {s : State} {a : Addr} {x : Target} (ha : s.target a = some x)
    (h : s.busy = false ∨ x.writableWhileBusy = true) (v : Word) : s.busWrite a v = s.writeTarget v x := by
  simp only [State.busWrite, ha]
  refine if_neg ?_
  rcases h with h | h <;> simp [h]

theorem State.busWrite_of_busy {s : State} {a : Addr} {x : Target} (ha : s.target a = some x)
    (hb : s.busy = true) (hx : x.writableWhileBusy = false) (v : Word) : s.busWrite a v = { s with ovr := true } := by
  simp [State.busWrite, ha, hb, hx]

theorem State.busWrite_ctrl (s : State) (v : Word) : s.busWrite 0x0004 v = s.writeCtrl v :=
  State.busWrite_of_writable (x := .ctrl) rfl (.inr rfl) v

theorem State.busWrite_status (s : State) (v : Word) : s.busWrite 0x0008 v = s.writeStatus v :=
  State.busWrite_of_writable (x := .status) rfl (.inr rfl) v

theorem State.busWrite_cmd {s : State} (h : s.busy = false) (w : Word) : s.busWrite 0x000C w = s.accept w :=
  State.busWrite_of_writable (x := .cmd) rfl (.inl h) w

/-- Settles O10: CMD takes a write only while idle, and the write it takes is `State.accept`. -/
theorem cmdWriteIsAcceptedWhenIdle : Obligations.CmdWriteIsAcceptedWhenIdle := by
  refine fun s w => ⟨fun hidle => ?_, fun hbusy => State.busWrite_of_busy (x := .cmd) rfl hbusy rfl w⟩
  rw [State.busWrite_cmd hidle]
  exact ⟨rfl, rfl⟩

/-! ## What an error leaves alone (spec/60_exceptions.md R265) -/

/-- Only OPEN raises an error in its pseudocode, and then it has written RK and RK_VALID. -/
theorem commandEffect_code (i : Instr) (s : State) :
    (commandEffect i s).2 = .none ∨
      (i = .openMsg ∧ commandEffect i s = (s.deriveRoundKeys, .tamperedCiphertext)) := by
  cases i with
  | addRoundKey k =>
    by_cases h : k.toNat ≤ 10
    · exact .inl (by rw [commandEffect_addRoundKey h])
    · exact .inl (by rw [commandEffect_addRoundKey_illegal h])
  | openMsg =>
    cases h : openString s.rom s.message s.key s.counter with
    | none => exact .inr ⟨rfl, commandEffect_openMsg_tampered h⟩
    | some pt => exact .inl (by rw [commandEffect_openMsg_verified h])
  | _ => exact .inl rfl

theorem firstError_commandChecks_ne_tampered (i : Instr) (s : State) :
    firstError (commandChecks i s) ≠ some .tamperedCiphertext := by
  apply firstError_ne
  cases i with
  | addRoundKey k => by_cases h : k.toNat ≤ 10 <;> simp [commandChecks, h]
  | _ => simp [commandChecks]

/-- The three ways to complete: success, an error that wrote only the completion, and OPEN's tag mismatch. -/
theorem exec_outcomes {i : Instr} {s t : State} (h : exec i s = .next t) :
    t.err = .none ∨ (t.err ≠ .tamperedCiphertext ∧ t = s.complete t.err) ∨
      (i = .openMsg ∧ t = s.deriveRoundKeys.complete .tamperedCiphertext) := by
  rcases exec_cases h with ⟨-, rfl⟩ | ⟨-, e, he, rfl⟩ | ⟨-, -, rfl⟩
  · exact .inr (.inl ⟨nofun, rfl⟩)
  · refine .inr (.inl ⟨fun htampered => ?_, rfl⟩)
    exact firstError_commandChecks_ne_tampered i s (he.trans (congrArg some htampered))
  · rcases commandEffect_code i s with hnone | ⟨hopen, heffect⟩
    · exact .inl hnone
    · exact .inr (.inr ⟨hopen, by rw [heffect]⟩)

/-- An ILLEGAL word completes in the second of those ways. -/
theorem runWord_outcomes {w : Word} {s t : State} (h : runWord w s = .next t) :
    t.err = .none ∨ (t.err ≠ .tamperedCiphertext ∧ t = s.complete t.err) ∨
      (decode w = .ok .openMsg ∧ t = s.deriveRoundKeys.complete .tamperedCiphertext) := by
  cases hd : decode w with
  | ok i =>
    rw [runWord, hd] at h
    simpa using exec_outcomes h
  | error e =>
    rw [runWord_of_illegal ⟨e, hd⟩, runIllegal_eq] at h
    cases h
    refine .inr (.inl ⟨?_, rfl⟩)
    cases hs : s.sboxOk <;> simp

/-- Settles O12: each clause picks among the three outcomes of a word by its code; neither error writes CMD. -/
theorem errorsAreAllOrNothing : Obligations.ErrorsAreAllOrNothing := by
  intro w s t h
  rcases runWord_outcomes h with hnone | ⟨hne, ht⟩ | ⟨hd, rfl⟩
  · simp [hnone]
  · refine ⟨fun _ _ => ht, fun herr => absurd herr hne, fun hinv hrun _ => ?_⟩
    rw [ht]
    exact (hinv.runningIsAccepted w hrun).1
  · exact ⟨fun _ herr => absurd rfl herr, fun _ => ⟨hd, rfl⟩, fun hinv hrun _ => (hinv.runningIsAccepted w hrun).1⟩

/-! ## Failed tables (spec/60_exceptions.md R273) -/

theorem exec_sboxFailure (i : Instr) {s : State} (h : s.sboxOk = false) :
    exec i s = .next (s.complete .sboxInitFailure) := by
  rw [exec_eq, runCommand_sboxFailure h]

theorem runWord_sboxFailure (w : Word) {s : State} (h : s.sboxOk = false) :
    runWord w s = .next (s.complete .sboxInitFailure) := by
  cases hd : decode w with
  | ok i => rw [runWord, hd]; exact exec_sboxFailure i h
  | error e => rw [runWord_of_illegal ⟨e, hd⟩, runIllegal, runCommand_sboxFailure h]

theorem State.writeTarget_sboxOk (s : State) (v : Word) (x : Target) : (s.writeTarget v x).sboxOk = s.sboxOk := by
  cases x <;> rfl

theorem State.busWrite_sboxOk (s : State) (a : Addr) (v : Word) : (s.busWrite a v).sboxOk = s.sboxOk := by
  rcases s.busWrite_cases a v with ⟨-, e⟩ | ⟨x, -, ⟨-, -, e⟩ | ⟨-, e⟩⟩
  · rw [e]
  · rw [e]
  · rw [e, State.writeTarget_sboxOk]

theorem busTransaction_sboxOk (r : BusRequest) (s : State) : (busTransaction r s).sboxOk = s.sboxOk := by
  cases r with
  | read a => rfl
  | write a v => exact s.busWrite_sboxOk a v

/-- The sequencer sets SBOX_OK in no state but SELFTEST. -/
theorem sequencerTurn_sboxFailure {s t : State} (h : s.sboxOk = false) (hseq : s.seq ≠ .selftest)
    (ht : sequencerTurn s = .next t) : t.sboxOk = false := by
  cases hs : s.seq with
  | selftest => exact absurd hs hseq
  | idle =>
    simp only [sequencerTurn, hs] at ht
    cases ht
    exact h
  | run w =>
    rw [sequencerTurn_of_run hs, runWord_sboxFailure w h] at ht
    cases ht
    exact h

theorem step_sboxFailure {s t : State} (h : s.sboxOk = false) (hseq : s.seq ≠ .selftest)
    (ht : step s = .next t) : t.sboxOk = false := by
  cases hin : s.inputs with
  | nil => exact sequencerTurn_sboxFailure h hseq ((step_of_nil hin).symm.trans ht)
  | cons i rest =>
    rw [step_of_cons hin] at ht
    cases i with
    | bus r =>
      cases ht
      exact (busTransaction_sboxOk r _).trans h
    | sequencer => exact sequencerTurn_sboxFailure (s := { s with inputs := rest }) h hseq ht
    | reset d =>
      cases ht
      rfl

/-- The tables of spec/41_round_transforms.md R130. -/
theorem Rom.standard_pairOk : Rom.standard.pairOk = true := by decide +kernel

/-- Settles O13: SBOX_OK is the first check of every word, and of all events only the self-check's end sets it. -/
theorem sboxFailureIsFatal : Obligations.SboxFailureIsFatal :=
  ⟨fun w _ h => runWord_sboxFailure w h, fun i _ h => exec_sboxFailure i h, fun s h => by simp [h],
    fun _ _ h hseq ht => step_sboxFailure h hseq ht, Rom.standard_pairOk⟩

/-! ## The interrupt (spec/60_exceptions.md R280) -/

theorem commandEffect_ie (i : Instr) (s : State) : (commandEffect i s).1.ie = s.ie := by
  cases i with
  | addRoundKey k =>
    by_cases h : k.toNat ≤ 10
    · rw [commandEffect_addRoundKey h, State.writeState_ie]
    · rw [commandEffect_addRoundKey_illegal h]
  | openMsg =>
    cases h : openString s.rom s.message s.key s.counter with
    | none => rw [commandEffect_openMsg_tampered h, State.deriveRoundKeys_ie]
    | some pt => simp [commandEffect_openMsg_verified h]
  | _ => rfl

theorem State.irq_of_not_done {s : State} (h : s.done = false) : s.irq = false := by
  simp [State.irq, h]

theorem State.irq_complete (s : State) (e : ErrCode) : (s.complete e).irq = s.ie := by
  simp [State.irq]

theorem exec_irq {i : Instr} {s t : State} (h : exec i s = .next t) : t.irq = s.ie := by
  rcases exec_cases h with ⟨-, rfl⟩ | ⟨-, e, -, rfl⟩ | ⟨-, -, rfl⟩
  · exact s.irq_complete _
  · exact s.irq_complete e
  · rw [State.irq_complete, commandEffect_ie]

/-- Settles O56: a completion raises DONE and keeps IE; each way to lower irq clears DONE or IE. -/
theorem interruptIsALevel : Obligations.InterruptIsALevel := by
  refine ⟨fun _ => rfl, fun _ _ _ => exec_irq, fun s v hv => ?_, fun s v => ?_, fun s w hidle => ?_,
    fun _ _ => ⟨State.irq_of_not_done rfl, State.irq_of_not_done rfl⟩⟩
  · rw [State.busWrite_status]
    exact State.irq_of_not_done (by simp [hv])
  · rw [State.busWrite_ctrl]
    exact ⟨rfl, rfl⟩
  · rw [State.busWrite_cmd hidle]
    exact State.irq_of_not_done rfl

end Sys2Proof.Machine

/-! Hazards: what an access meets while BUSY = 1. -/

namespace Sys2Proof.Machine

/-- From CMD upwards an aligned offset in one of the ranges of the map names a word that is closed while BUSY = 1 (spec/70_reset_and_hazards.md R312, R313). -/
theorem mapOffset_closed {b n : Nat} (h4 : n % 4 = 0) (hn : 0x000C ≤ n)
    (h : n < 0x0050 ∨ (0x0100 ≤ n ∧ n < 0x01B0) ∨ (0x1000 ≤ n ∧ n < 0x1000 + b)) :
    ∃ x, mapOffset b n = some x ∧ x.readableWhileBusy = false ∧ x.writableWhileBusy = false := by
  have ranges : n < 0x0020 ∨ (0x0020 ≤ n ∧ n < 0x0030) ∨ (0x0030 ≤ n ∧ n < 0x0040) ∨
      (0x0040 ≤ n ∧ n < 0x0050) ∨ (0x0100 ≤ n ∧ n < 0x01B0) ∨ (0x1000 ≤ n ∧ n < 0x1000 + b) := by omega
  rcases ranges with hs | ⟨h1, h2⟩ | ⟨h1, h2⟩ | ⟨h1, h2⟩ | ⟨h1, h2⟩ | ⟨h1, h2⟩
  · rcases mapOffset_scalar (b := b) hs h4 with
      ⟨hid, -⟩ | ⟨hctrl, -⟩ | ⟨hstatus, -⟩ | ⟨-, e⟩ | ⟨-, e⟩ | ⟨-, e⟩ | ⟨-, e⟩ | ⟨-, e⟩
    iterate 3 · omega
    all_goals exact ⟨_, e, rfl, rfl⟩
  · exact ⟨_, mapOffset_key h1 h2, rfl, rfl⟩
  · exact ⟨_, mapOffset_state h1 h2, rfl, rfl⟩
  · exact ⟨_, mapOffset_tag h1 h2, rfl, rfl⟩
  · exact ⟨_, mapOffset_rk h1 h2, rfl, rfl⟩
  · exact ⟨_, mapOffset_buf h1 h2, rfl, rfl⟩

/-! ## Writes while BUSY = 1 (spec/70_reset_and_hazards.md R312) -/

theorem busTransaction_write_of_busy {s : State} {a : Addr} {x : Target} (ha : s.target a = some x)
    (hb : s.busy = true) (hx : x.writableWhileBusy = false) (v : Word) :
    busTransaction (.write a v) s = { s with ovr := true, responses := ⟨0, false⟩ :: s.responses } := by
  rw [busTransaction, State.busWrite_of_busy ha hb hx, State.busWriteResponse_of_some ha]
  rfl

/-- Settles O48: ID and every word from CMD upwards are closed while BUSY = 1, and the rest are the bus errors of O46. -/
theorem busyWritesOnlySetOverrun : Obligations.BusyWritesOnlySetOverrun := by
  intro s a v mapped hbusy hmapped
  rw [hmapped]
  refine ⟨fun h4 hm hctrl hstatus => ?_, fun hbad => ?_⟩
  · by_cases hid : a.toNat = 0x0000
    · obtain rfl : a = 0x0000 := BitVec.eq_of_toNat_eq hid
      exact busTransaction_write_of_busy (x := .id) rfl hbusy rfl v
    · obtain ⟨x, hx, -, hclosed⟩ := mapOffset_closed h4 (by omega) hm
      exact busTransaction_write_of_busy ((s.target_of_aligned h4).trans hx) hbusy hclosed v
  · exact ((busErrorsExactly s a v _ Iff.rfl).1 (by omega)).2

/-! ## Reads while BUSY = 1 (spec/70_reset_and_hazards.md R313) -/

theorem State.busRead_of_readable {s : State} {a : Addr} {x : Target} (ha : s.target a = some x)
    (h : s.busy = false ∨ x.readableWhileBusy = true) : s.busRead a = .ok (s.readTarget x) := by
  simp only [State.busRead, ha]
  refine if_neg ?_
  rcases h with h | h <;> simp [h]

/-- Settles O49: every word from CMD upwards is closed while BUSY = 1; ID, CTRL and STATUS never are. -/
theorem busyReadsAnswerZero : Obligations.BusyReadsAnswerZero := by
  refine fun s a h4 => ⟨fun hbusy hranges => ?_, fun hid => ?_, fun hctrl => ?_, fun hstatus => ?_⟩
  · obtain ⟨x, hx, hclosed, -⟩ := mapOffset_closed (b := s.bufBytes) h4 (by omega) (by omega)
    exact State.busRead_of_busy ((s.target_of_aligned h4).trans hx) hbusy hclosed
  · obtain rfl : a = 0x0000 := BitVec.eq_of_toNat_eq hid
    exact State.busRead_of_readable (x := .id) rfl (.inr rfl)
  · obtain rfl : a = 0x0004 := BitVec.eq_of_toNat_eq hctrl
    exact State.busRead_of_readable (x := .ctrl) rfl (.inr rfl)
  · obtain rfl : a = 0x0008 := BitVec.eq_of_toNat_eq hstatus
    exact State.busRead_of_readable (x := .status) rfl (.inr rfl)

end Sys2Proof.Machine

/-! Command words once more: the decoder on given words, the decoder as the inverse of the encoder, and ADD_ROUND_KEY by its index. -/

namespace Sys2Proof.Machine

/-- Settles O2: `decode_eq_ok_iff`, from the fields of a command's word and the branches of the decoder. -/
theorem decodeAndEncodeAgree : Obligations.DecodeAndEncodeAgree := decode_eq_ok_iff

/-- Settles O1: each word written out is the word of its command, and each illegal one meets its own branch of the decoder. -/
theorem decodesTheSpecsWords : Obligations.DecodesTheSpecsWords :=
  ⟨decode_encode (i := .gfAdd) rfl, decode_encode (i := .invMixColumns) rfl, decode_encode (i := .addRoundKey 10) rfl,
    decode_encode (i := .expandKey) rfl, decode_encode (i := .decryptBlock) rfl, decode_encode (i := .cbcMac) rfl,
    decode_encode (i := .sealMsg) rfl, rfl, rfl, rfl, rfl⟩

/-! ## ADD_ROUND_KEY (spec/41_round_transforms.md R146) -/

theorem addRoundKey_illegal {s : State} {k : BitVec 4} (hs : s.sboxOk = true) (hk : 11 ≤ k.toNat) :
    FailsWith (exec (.addRoundKey k) s) s .illegalCommand :=
  exec_fails hs (by simp [commandChecks, Nat.not_le.mpr hk])

theorem addRoundKey_keyNotExpanded {s : State} {k : BitVec 4} (hs : s.sboxOk = true) (hk : k.toNat ≤ 10)
    (hv : s.rkValid = false) : FailsWith (exec (.addRoundKey k) s) s .keyNotExpanded :=
  exec_fails hs (by simp [commandChecks, hk, hv])

theorem runTransforms_addRoundKey_of_le {k : BitVec 4} (hk : k.toNat ≤ 10) :
    RunTransforms [.addRoundKey k] fun _ rk b => addRoundKey b rk[k.toNat] :=
  fun _ hs hv => runCommands_cons (exec_addRoundKey hk hs hv)

theorem runCommands_addRoundKey_twice {s : State} {k : BitVec 4} (hk : k.toNat ≤ 10) (hs : s.sboxOk = true)
    (hv : s.rkValid = true) :
    ∃ u, runCommands [.addRoundKey k, .addRoundKey k] s = some u ∧ u.state = s.state :=
  ⟨_, (runTransforms_addRoundKey_of_le hk).append (runTransforms_addRoundKey_of_le hk) s hs hv,
    addRoundKey_addRoundKey _ _⟩

/-- Settles O21: the checks one by one, the xor byte by byte, and round key 0 from the key schedule. -/
theorem addRoundKeyCommand : Obligations.AddRoundKeyCommand := by
  refine ⟨encode_addRoundKey, fun s k hs => ⟨addRoundKey_illegal hs, addRoundKey_keyNotExpanded hs, fun hk hv => ?_⟩,
    fun rom key b => ?_⟩
  · exact ⟨_, exec_addRoundKey hk hs hv, rfl, fun i => getElem_addRoundKey _ _ i i.isLt,
      runCommands_addRoundKey_twice hk hs hv⟩
  · rw [expand_zero]
    rfl

end Sys2Proof.Machine

/-! What a command writes and what it leaves alone (spec/30_encoding.md R95): what a command's effect keeps and the completion keeps, the command keeps, and the frames of all commands follow from their effects. -/

namespace Sys2Proof.Machine

/-! ## The updates of the two commands that have a case split of their own -/

theorem commandEffect_addRoundKey_fst (k : BitVec 4) (s : State) :
    ∃ b, (commandEffect (.addRoundKey k) s).1 = s.writeState b := by
  by_cases h : k.toNat ≤ 10
  · exact ⟨_, by rw [commandEffect_addRoundKey h]⟩
  · exact ⟨s.state, by rw [commandEffect_addRoundKey_illegal h]; rfl⟩

/-- Whatever the counter, a verified string gives as many bytes as its ciphertext has when padded. -/
theorem length_of_openString {rom : Rom} {str : List Byte} {key : Block} {c : Nat} {pt : List Byte}
    (h : openString rom str key c = some pt) : pt.length = pad16 (str.length - 16) := by
  simp only [openString, Option.ite_none_right_eq_some, Option.some.injEq] at h
  obtain ⟨-, rfl⟩ := h
  simp

theorem commandEffect_openMsg_fst (s : State) :
    (commandEffect .openMsg s).1 = s.deriveRoundKeys ∨
      ∃ pt, pt.length = pad16 (s.length - 16) ∧
        (commandEffect .openMsg s).1 = (s.deriveRoundKeys.writeMessage pt).writeLen (s.length - 16) := by
  cases h : openString s.rom s.message s.key s.counter with
  | none => exact .inl (by rw [commandEffect_openMsg_tampered h])
  | some pt =>
    refine .inr ⟨pt, ?_, by rw [commandEffect_openMsg_verified h]⟩
    rw [length_of_openString h, State.length_message]

/-! ## From the effect of a command to its completion -/

/-- What the start of a command and its effect have, and the completion keeps, the end of the command has. -/
theorem exec_induction {P : State → Prop} {i : Instr} {s t : State} (h : exec i s = .next t)
    (hcomplete : ∀ u e, P u → P (u.complete e)) (hstart : P s)
    (heffect : firstError (commandChecks i s) = none → P (commandEffect i s).1) : P t := by
  rcases exec_cases h with ⟨-, rfl⟩ | ⟨-, e, -, rfl⟩ | ⟨-, hpass, rfl⟩
  · exact hcomplete s _ hstart
  · exact hcomplete s e hstart
  · exact hcomplete _ _ (heffect hpass)

/-! ## The host's side (spec/30_encoding.md R95) -/

theorem SameHostSide.refl (s : State) : SameHostSide s s := by constructor <;> rfl

theorem SameHostSide.complete {s u : State} (h : SameHostSide s u) (e : ErrCode) : SameHostSide s (u.complete e) := by
  cases h
  constructor <;> assumption

theorem commandEffect_sameHostSide (i : Instr) (s : State) : SameHostSide s (commandEffect i s).1 := by
  cases i with
  | addRoundKey k =>
    obtain ⟨b, e⟩ := commandEffect_addRoundKey_fst k s
    rw [e]
    constructor <;> rfl
  | openMsg =>
    rcases commandEffect_openMsg_fst s with e | ⟨pt, -, e⟩
    all_goals
      rw [e]
      constructor <;> rfl
  | _ => constructor <;> simp

/-- Settles O41: an effect updates result registers, RK and BUF, and a completion ERR, DONE and SEQ. -/
theorem commandsLeaveHostSideAlone : Obligations.CommandsLeaveHostSideAlone :=
  fun i s _ h => exec_induction h (fun _ e hu => hu.complete e) (SameHostSide.refl s)
    fun _ => commandEffect_sameHostSide i s

/-! ## The result registers (spec/30_encoding.md R95) -/

/-- Each result register of t is that of s unless i lists it. -/
def WritesOnlyResults (i : Instr) (s t : State) : Prop :=
  (i ≠ .gfAdd → i ≠ .gfMul → t.gfP = s.gfP) ∧
  (i ≠ .subBytes → i ≠ .invSubBytes → i ≠ .shiftRows → i ≠ .invShiftRows → i ≠ .mixColumns →
    i ≠ .invMixColumns → (∀ k, i ≠ .addRoundKey k) → i ≠ .encryptBlock → i ≠ .decryptBlock →
    t.state = s.state) ∧
  (i ≠ .cbcMac → i ≠ .sealMsg → t.tag = s.tag) ∧
  (i ≠ .ctrApply → i ≠ .sealMsg → i ≠ .openMsg → t.len = s.len) ∧
  (i ≠ .expandKey → i ≠ .sealMsg → i ≠ .openMsg → t.rk = s.rk ∧ t.rkValid = s.rkValid)

theorem commandEffect_writesOnlyResults (i : Instr) (s : State) : WritesOnlyResults i s (commandEffect i s).1 := by
  unfold WritesOnlyResults
  cases i with
  | addRoundKey k =>
    obtain ⟨b, e⟩ := commandEffect_addRoundKey_fst k s
    simp [e]
  | openMsg =>
    rcases commandEffect_openMsg_fst s with e | ⟨pt, -, e⟩
    all_goals simp [e]
  | _ => simp

/-- Settles O42, command by command; a completion writes no result register. -/
theorem commandsWriteOnlyTheirResults : Obligations.CommandsWriteOnlyTheirResults :=
  fun i s t h => exec_induction (P := WritesOnlyResults i s) h (fun _ _ hu => hu)
    (by simp [WritesOnlyResults]) fun _ => commandEffect_writesOnlyResults i s

/-! ## The bytes of BUF (spec/30_encoding.md R95) -/

/-- How many bytes of BUF a command may store, from BUF[0] on. -/
def storeLength : Instr → State → Nat
  | .ctrApply, s => pad16 s.length
  | .sealMsg, s => pad16 s.length + 16
  | .openMsg, s => s.length - 16
  | _, _ => 0

/-- BUF of t is that of s with at most n bytes stored from BUF[0] on, all inside BUF. -/
def StoresAtMost (n : Nat) (s t : State) : Prop :=
  ∃ bs : List Byte, bs.length ≤ n ∧ bs.length ≤ s.bufBytes ∧ t.buf = s.buf.writeBytes 0 bs

theorem StoresAtMost.of_buf_eq {n : Nat} {s t : State} (h : t.buf = s.buf) : StoresAtMost n s t :=
  ⟨[], Nat.zero_le _, Nat.zero_le _, h⟩

theorem StoresAtMost.sameBufOutside {n : Nat} {s t : State} (h : StoresAtMost n s t) : SameBufOutside 0 n s t := by
  obtain ⟨bs, hn, -, e⟩ := h
  intro i hi
  rw [e, Memory.read_writeBytes_outside (by omega)]

theorem StoresAtMost.wf {n : Nat} {s t : State} (h : StoresAtMost n s t) (hb : s.buf.wf) : t.buf.wf := by
  obtain ⟨bs, -, -, e⟩ := h
  exact e ▸ Memory.wf_writeBytes hb

theorem StoresAtMost.inside {n : Nat} {s t : State} (h : StoresAtMost n s t) (hb : ∀ c ∈ s.buf, c.1 < s.bufBytes) :
    ∀ c ∈ t.buf, c.1 < s.bufBytes := by
  obtain ⟨bs, -, hin, e⟩ := h
  exact e ▸ Memory.inside_writeBytes hb (by omega)

/-- Past its length check a command stores inside BUF. -/
theorem commandEffect_storesAtMost {i : Instr} {s : State} (hpass : firstError (commandChecks i s) = none) :
    StoresAtMost (storeLength i s) s (commandEffect i s).1 := by
  cases i with
  | addRoundKey k =>
    obtain ⟨b, e⟩ := commandEffect_addRoundKey_fst k s
    exact .of_buf_eq (by rw [e, State.writeState_buf])
  | ctrApply =>
    obtain ⟨-, hl, -⟩ := (ctrApply_checks_pass_iff s).mp hpass
    have hlen : (ctrApply s.rom s.message s.rk s.counter).length = pad16 s.length := by simp
    exact ⟨_, hlen.le, hlen.trans_le (State.pad16_length_le hl), rfl⟩
  | sealMsg =>
    obtain ⟨hl, -⟩ := (sealMsg_checks_pass_iff s).mp hpass
    have hlen : (sealString s.rom s.message s.key s.counter).length = pad16 s.length + 16 := by
      rw [length_sealString, State.length_message]
    exact ⟨_, hlen.le, hlen.trans_le (State.pad16_length_add_le hl), rfl⟩
  | openMsg =>
    obtain ⟨hl, ⟨-, hm⟩, -⟩ := (openMsg_checks_pass_iff s).mp hpass
    rcases commandEffect_openMsg_fst s with e | ⟨pt, hpt, e⟩
    · exact .of_buf_eq (by rw [e, State.deriveRoundKeys_buf])
    · rw [pad16_of_mod (by omega)] at hpt
      exact ⟨pt, hpt.le, by omega, by rw [e]; rfl⟩
  | _ => exact .of_buf_eq (by simp)

theorem exec_storesAtMost {i : Instr} {s t : State} (h : exec i s = .next t) : StoresAtMost (storeLength i s) s t :=
  exec_induction (P := StoresAtMost (storeLength i s) s) h (fun _ _ hu => hu) (.of_buf_eq rfl)
    commandEffect_storesAtMost

theorem storeLength_eq_zero {i : Instr} (s : State) (hctr : i ≠ .ctrApply) (hseal : i ≠ .sealMsg)
    (hopen : i ≠ .openMsg) : storeLength i s = 0 := by
  cases i
  case ctrApply => exact absurd rfl hctr
  case sealMsg => exact absurd rfl hseal
  case openMsg => exact absurd rfl hopen
  all_goals rfl

/-- Settles O43: each command stores at most `storeLength` bytes from BUF[0] on. -/
theorem commandsStoreOnlyTheirMessage : Obligations.CommandsStoreOnlyTheirMessage := by
  intro i s t h
  have hout := (exec_storesAtMost h).sameBufOutside
  refine ⟨fun hctr hseal hopen n => ?_, ?_, ?_, ?_⟩
  · rw [storeLength_eq_zero s hctr hseal hopen] at hout
    exact hout n (.inr (Nat.zero_le n))
  all_goals
    rintro rfl
    exact hout

/-! ## The code a command ends with (spec/60_exceptions.md R264, R270) -/

theorem mem_of_firstError {checks : List (Bool × ErrCode)} {e : ErrCode} (h : firstError checks = some e) :
    ∃ c ∈ checks, c.2 = e := by
  by_contra hne
  exact firstError_ne (fun c hc he => hne ⟨c, hc, he⟩) h

theorem commandChecks_codes_raisedBy {i : Instr} (hwf : i.wf = true) (s : State) :
    ∀ c ∈ commandChecks i s, c.2 ∈ raisedBy i := by
  cases i with
  | addRoundKey k =>
    have hk : k.toNat ≤ 10 := by simpa [Instr.wf] using hwf
    simp [commandChecks, hk, raisedBy]
  | _ => simp [commandChecks, raisedBy]

theorem sboxInitFailure_mem_raisedBy (i : Instr) : .sboxInitFailure ∈ raisedBy i := by
  cases i <;> simp [raisedBy]

theorem none_mem_raisedBy (i : Instr) : .none ∈ raisedBy i := by
  cases i <;> simp [raisedBy]

theorem exec_err_mem_raisedBy {i : Instr} {s t : State} (h : exec i s = .next t) (hwf : i.wf = true) :
    t.err ∈ raisedBy i := by
  rcases exec_cases h with ⟨-, rfl⟩ | ⟨-, e, he, rfl⟩ | ⟨-, -, rfl⟩
  · exact sboxInitFailure_mem_raisedBy i
  · obtain ⟨c, hc, rfl⟩ := mem_of_firstError he
    exact commandChecks_codes_raisedBy hwf s c hc
  · rw [State.complete_err]
    rcases commandEffect_code i s with hnone | ⟨rfl, e⟩
    · rw [hnone]
      exact none_mem_raisedBy i
    · simp [e, raisedBy]

/-- Every end of a command is a completion. -/
theorem exec_eq_complete {i : Instr} {s t : State} (h : exec i s = .next t) :
    ∃ (u : State) (e : ErrCode), t = u.complete e := by
  rcases exec_cases h with ⟨-, rfl⟩ | ⟨-, e, -, rfl⟩ | ⟨-, -, rfl⟩ <;> exact ⟨_, _, rfl⟩

/-- Settles O11: every end of a command is a completion, with the code of SBOX_OK, of a check or of the pseudocode. -/
theorem completionBookkeeping : Obligations.CompletionBookkeeping := by
  intro i s t h
  have hcode := exec_err_mem_raisedBy h
  obtain ⟨u, e, rfl⟩ := exec_eq_complete h
  exact ⟨rfl, rfl, rfl, hcode⟩

end Sys2Proof.Machine

namespace Sys2Proof.Machine

/-! ## What a command reads (spec/30_encoding.md R95) -/

theorem State.message_congr {s s' : State} (h : SameMessage s s') : s.message = s'.message := by
  obtain ⟨hlen, hbuf⟩ := h
  rw [State.message_eq_map, State.message_eq_map, ← hlen]
  exact List.map_congr_left fun n hn => hbuf n (List.mem_range.mp hn)

theorem State.length_congr {s s' : State} (h : SameMessage s s') : s.length = s'.length :=
  congrArg BitVec.toNat h.1

theorem State.counter_congr {s s' : State} (h : SameCounter s s') : s.counter = s'.counter := by
  rw [State.counter, State.counter, h.1, h.2]

theorem State.bufBytes_congr {s s' : State} (h : s.bufSize = s'.bufSize) : s.bufBytes = s'.bufBytes :=
  congrArg BufSize.bytes h

theorem commandChecks_congr {i : Instr} {s s' : State} (h : SameOperands i s s') :
    commandChecks i s = commandChecks i s' := by
  obtain ⟨-, -, hsize, hops⟩ := h
  have hsize := State.bufBytes_congr hsize
  cases i with
  | addRoundKey k =>
    obtain ⟨-, hv, -⟩ := hops
    simp only [commandChecks, hv]
  | encryptBlock | decryptBlock =>
    obtain ⟨-, hv, -⟩ := hops
    simp only [commandChecks, hv]
  | ctrApply =>
    obtain ⟨hm, hc, hv, -⟩ := hops
    simp only [commandChecks, hv, hsize, State.length_congr hm, State.counter_congr hc]
  | cbcMac =>
    obtain ⟨hm, hv, -⟩ := hops
    simp only [commandChecks, hv, hsize, State.length_congr hm]
  | sealMsg | openMsg =>
    obtain ⟨hm, hc, -⟩ := hops
    simp only [commandChecks, hsize, State.length_congr hm, State.counter_congr hc]
  | _ => rfl

/-- One string written over the start of both buffers, with one length. -/
theorem sameOutput_write {s s' : State} (hb : s.buf.wf) (hb' : s'.buf.wf) {bs : List Byte} {n : Nat}
    (hn : n ≤ bs.length) (m : Nat) :
    SameOutput n ((s.writeMessage bs).writeLen m) ((s'.writeMessage bs).writeLen m) := by
  refine ⟨rfl, fun j hj => ?_⟩
  rw [State.writeLen_buf, State.writeLen_buf, State.read_writeMessage hb, State.read_writeMessage hb',
    if_pos (by omega), if_pos (by omega)]

/-- The effect and the code of a command agree from two states. -/
def SameEffect (i : Instr) (s s' : State) : Prop :=
  (commandEffect i s).2 = (commandEffect i s').2 ∧
    ((commandEffect i s).2 = .none → SameResults i s (commandEffect i s).1 (commandEffect i s').1)

theorem sameEffect_ctrApply {s s' : State} (h : SameOperands .ctrApply s s') (hb : s.buf.wf) (hb' : s'.buf.wf) :
    SameEffect .ctrApply s s' := by
  obtain ⟨-, hrom, -, hm, hc, -, hrk⟩ := h
  rw [SameEffect, commandEffect_ctrApply, commandEffect_ctrApply, ← hrom, ← State.message_congr hm, ← hrk,
    ← State.counter_congr hc, ← State.length_congr hm]
  exact ⟨rfl, fun _ => sameOutput_write hb hb' (by simp [State.length]) _⟩

theorem sameEffect_sealMsg {s s' : State} (h : SameOperands .sealMsg s s') (hb : s.buf.wf) (hb' : s'.buf.wf) :
    SameEffect .sealMsg s s' := by
  obtain ⟨-, hrom, -, hm, hc, hkey⟩ := h
  rw [SameEffect, commandEffect_sealMsg, commandEffect_sealMsg, ← hrom, ← State.message_congr hm, ← hkey,
    ← State.counter_congr hc, ← State.length_congr hm]
  refine ⟨rfl, fun _ => ⟨⟨by simp, by simp [hrom, hkey]⟩, by simp, ?_⟩⟩
  exact sameOutput_write (s := s.deriveRoundKeys) (s' := s'.deriveRoundKeys) hb hb'
    (by simp [length_sealString, State.length]) _

theorem sameEffect_openMsg {s s' : State} (h : SameOperands .openMsg s s') (hb : s.buf.wf) (hb' : s'.buf.wf) :
    SameEffect .openMsg s s' := by
  obtain ⟨-, hrom, -, hm, hc, hkey⟩ := h
  have hopen' : openString s'.rom s'.message s'.key s'.counter = openString s.rom s.message s.key s.counter := by
    rw [hrom, State.message_congr hm, hkey, State.counter_congr hc]
  cases hopen : openString s.rom s.message s.key s.counter with
  | none =>
    rw [SameEffect, commandEffect_openMsg_tampered hopen, commandEffect_openMsg_tampered (hopen'.trans hopen)]
    exact ⟨rfl, nofun⟩
  | some pt =>
    rw [SameEffect, commandEffect_openMsg_verified hopen, commandEffect_openMsg_verified (hopen'.trans hopen),
      ← State.length_congr hm]
    have hlen : s.length - 16 ≤ pt.length := by
      rw [length_of_openString hopen, State.length_message]
      exact le_pad16 _
    exact ⟨rfl, fun _ => ⟨⟨by simp, by simp [hrom, hkey]⟩,
      sameOutput_write (s := s.deriveRoundKeys) (s' := s'.deriveRoundKeys) hb hb' hlen _⟩⟩

theorem sameEffect_addRoundKey {s s' : State} {k : BitVec 4} (hk : k.toNat ≤ 10)
    (h : SameOperands (.addRoundKey k) s s') : SameEffect (.addRoundKey k) s s' := by
  obtain ⟨-, -, -, hstate, -, hrk⟩ := h
  have hlt : k.toNat < 11 := by omega
  have hrk : s.rk[k.toNat] = s'.rk[k.toNat] := by simpa [Vector.getElem?_eq_getElem hlt] using hrk
  simp [SameEffect, commandEffect_addRoundKey hk, SameResults, hstate, hrk]

theorem SameOperands.sameEffect {i : Instr} {s s' : State} (h : SameOperands i s s') (hb : s.buf.wf)
    (hb' : s'.buf.wf) (hpass : firstError (commandChecks i s) = none) : SameEffect i s s' := by
  obtain ⟨-, hrom, -, hops⟩ := id h
  cases i with
  | gfAdd | gfMul =>
    obtain ⟨ha, hb⟩ := hops
    simp [SameEffect, SameResults, ha, hb]
  | addRoundKey k =>
    refine sameEffect_addRoundKey ?_ h
    by_contra hk
    simp [commandChecks, hk] at hpass
  | expandKey =>
    have hkey : s.key = s'.key := hops
    simp [SameEffect, SameResults, SameRoundKeys, hrom, hkey]
  | encryptBlock | decryptBlock =>
    obtain ⟨hstate, -, hrk⟩ := hops
    simp [SameEffect, SameResults, hrom, hstate, hrk]
  | cbcMac =>
    obtain ⟨hm, -, hrk⟩ := hops
    simp [SameEffect, SameResults, hrom, State.message_congr hm, hrk]
  | ctrApply => exact sameEffect_ctrApply h hb hb'
  | sealMsg => exact sameEffect_sealMsg h hb hb'
  | openMsg => exact sameEffect_openMsg h hb hb'
  | _ =>
    have hstate : s.state = s'.state := hops
    simp [SameEffect, SameResults, hrom, hstate]

/-- The completion writes no result. -/
theorem SameResults.complete {i : Instr} {s u u' : State} (h : SameResults i s u u') (e e' : ErrCode) :
    SameResults i s (u.complete e) (u'.complete e') := by
  cases i <;> exact h

/-- Settles O44: the checks are equal, so both commands fail one check or both run, and the effects agree. -/
theorem commandsReadOnlyTheirOperands : Obligations.CommandsReadOnlyTheirOperands := by
  intro i s s' t t' hsame hb hb' h h'
  have hchecks := commandChecks_congr hsame
  rw [exec_eq] at h h'
  cases hs : s.sboxOk with
  | false =>
    rw [runCommand_sboxFailure hs] at h
    rw [runCommand_sboxFailure (hsame.sboxOk ▸ hs)] at h'
    cases h
    cases h'
    exact ⟨rfl, nofun⟩
  | true =>
    have hs' : s'.sboxOk = true := hsame.sboxOk ▸ hs
    cases he : firstError (commandChecks i s) with
    | some e =>
      rw [runCommand_fails hs he] at h
      rw [runCommand_fails hs' (hchecks ▸ he)] at h'
      cases h
      cases h'
      refine ⟨rfl, fun hnone => absurd he ?_⟩
      rw [show e = .none from hnone]
      exact firstError_commandChecks_ne_none_code i s
    | none =>
      rw [runCommand_runs hs he] at h
      rw [runCommand_runs hs' (hchecks ▸ he)] at h'
      cases h
      cases h'
      obtain ⟨hcode, hresults⟩ := hsame.sameEffect hb hb' he
      exact ⟨hcode, fun hnone => (hresults hnone).complete _ _⟩

end Sys2Proof.Machine

/-! Steps: what each event can do, said once, and from it that every run settles and how RK_VALID changes. -/

namespace Sys2Proof.Machine

/-! ## A step by its event (spec/20_memory.md R80, spec/60_exceptions.md R263, R264) -/

theorem runWord_of_decode {w : Word} {i : Instr} (h : decode w = .ok i) (s : State) : runWord w s = exec i s := by
  simp [runWord, h]

theorem sequencerTurn_of_selftest {s : State} (h : s.seq = .selftest) : sequencerTurn s = .next s.selfCheck := by
  simp [sequencerTurn, h]

theorem sequencerTurn_of_idle {s : State} (h : s.seq = .idle) : sequencerTurn s = .next s := by
  simp [sequencerTurn, h]

/-- A scheduled turn of the sequencer. -/
theorem step_of_sequencer {s : State} {rest : List Input} (h : s.inputs = .sequencer :: rest) :
    step s = sequencerTurn { s with inputs := rest } := step_of_cons h

/-- Settles O7: the sequencer's turn in RUN(w) is `runWord w`, and w decodes to i. -/
theorem stepRunsDecodedCommand : Obligations.StepRunsDecodedCommand := by
  refine fun s w i hseq hdecode => ⟨fun hin => ?_, fun rest hin => ?_⟩
  · rw [step_of_nil hin, sequencerTurn_of_run hseq, runWord_of_decode hdecode]
  · rw [step_of_sequencer hin, sequencerTurn_of_run (s := { s with inputs := rest }) hseq, runWord_of_decode hdecode]

/-- Settles O8: the first input is performed, and a turn of the sequencer is the same whether scheduled or not. -/
theorem stepPerformsTheNextEvent : Obligations.StepPerformsTheNextEvent := by
  refine fun s rest => ⟨fun r hin => step_of_cons hin, fun d hin => step_of_cons hin, fun hin hseq => ?_,
    fun hin hseq => ?_, fun w hin hseq hw => ?_, fun hin hseq => ?_, fun hin hseq => ?_, fun w hin hseq hw => ?_⟩
  · rw [step_of_nil hin, sequencerTurn_of_selftest hseq]
  · rw [step_of_nil hin, sequencerTurn_of_idle hseq]
  · rw [step_of_nil hin, sequencerTurn_of_run hseq, runWord_of_illegal hw]
  · rw [step_of_sequencer hin, sequencerTurn_of_selftest (s := { s with inputs := rest }) hseq]
  · rw [step_of_sequencer hin, sequencerTurn_of_idle (s := { s with inputs := rest }) hseq]
  · rw [step_of_sequencer hin, sequencerTurn_of_run (s := { s with inputs := rest }) hseq, runWord_of_illegal hw]

/-! ## Everything a step can do -/

theorem sequencerTurn_cases {s t : State} (h : sequencerTurn s = .next t) :
    (s.seq = .selftest ∧ t = s.selfCheck) ∨ (s.seq = .idle ∧ t = s) ∨ ∃ w, s.seq = .run w ∧ runWord w s = .next t := by
  cases hseq : s.seq with
  | selftest =>
    rw [sequencerTurn_of_selftest hseq] at h
    exact .inl ⟨rfl, (Host.Outcome.next.inj h).symm⟩
  | idle =>
    rw [sequencerTurn_of_idle hseq] at h
    exact .inr (.inl ⟨rfl, (Host.Outcome.next.inj h).symm⟩)
  | run w => exact .inr (.inr ⟨w, rfl, (sequencerTurn_of_run hseq).symm.trans h⟩)

/-- The state without the event that a step takes. -/
def State.takeInput (s : State) : State := { s with inputs := s.inputs.tail }

theorem State.takeInput_of_nil {s : State} (h : s.inputs = []) : s.takeInput = s := by
  rw [State.takeInput, h, List.tail_nil, ← h]

theorem State.takeInput_of_cons {s : State} {i : Input} {rest : List Input} (h : s.inputs = i :: rest) :
    s.takeInput = { s with inputs := rest } := by
  rw [State.takeInput, h, List.tail_cons]

/-- The next event of s is a turn of the sequencer. -/
def State.turnIsNext (s : State) : Prop := s.inputs = [] ∨ ∃ rest, s.inputs = .sequencer :: rest

/-- A step is a turn of the sequencer, a bus transaction or a reset. -/
theorem step_cases {s t : State} (h : step s = .next t) :
    (s.turnIsNext ∧ sequencerTurn s.takeInput = .next t) ∨
    (∃ r rest, s.inputs = .bus r :: rest ∧ t = busTransaction r s.takeInput) ∨
    ∃ d rest, s.inputs = .reset d :: rest ∧ t = s.takeInput.assertReset d := by
  cases hin : s.inputs with
  | nil =>
    rw [step_of_nil hin] at h
    exact .inl ⟨.inl hin, by rwa [State.takeInput_of_nil hin]⟩
  | cons i rest =>
    rw [step_of_cons hin, ← State.takeInput_of_cons hin] at h
    cases i with
    | sequencer => exact .inl ⟨.inr ⟨rest, hin⟩, h⟩
    | bus r => exact .inr (.inl ⟨r, rest, rfl, (Host.Outcome.next.inj h).symm⟩)
    | reset d => exact .inr (.inr ⟨d, rest, rfl, (Host.Outcome.next.inj h).symm⟩)

/-- What the start of a running word and a command's effect have, and the completion keeps, the end has. -/
theorem runWord_induction {P : State → Prop} {w : Word} {s t : State} (h : runWord w s = .next t)
    (hcomplete : ∀ u e, P u → P (u.complete e)) (hstart : P s)
    (heffect : ∀ i, decode w = .ok i → firstError (commandChecks i s) = none → P (commandEffect i s).1) : P t := by
  cases hd : decode w with
  | ok i => exact exec_induction ((runWord_of_decode hd s).symm.trans h) hcomplete hstart (heffect i hd)
  | error e =>
    rw [runWord_of_illegal ⟨e, hd⟩, runIllegal_eq] at h
    exact Host.Outcome.next.inj h ▸ hcomplete s _ hstart

theorem runWord_sameHostSide {w : Word} {s t : State} (h : runWord w s = .next t) : SameHostSide s t :=
  runWord_induction h (fun _ e hu => hu.complete e) (SameHostSide.refl s)
    fun i _ _ => commandEffect_sameHostSide i s

theorem runWord_storesAtMost {w : Word} {s t : State} (h : runWord w s = .next t) : StoresAtMost s.bufBytes s t := by
  refine runWord_induction (P := StoresAtMost s.bufBytes s) h (fun _ _ hu => hu) (.of_buf_eq rfl) fun i _ hpass => ?_
  obtain ⟨bs, -, hin, e⟩ := commandEffect_storesAtMost hpass
  exact ⟨bs, hin, hin, e⟩

/-- Every end of a running word is a completion. -/
theorem runWord_eq_complete {w : Word} {s t : State} (h : runWord w s = .next t) :
    ∃ (u : State) (e : ErrCode), t = u.complete e := by
  cases hd : decode w with
  | ok i => exact exec_eq_complete ((runWord_of_decode hd s).symm.trans h)
  | error e =>
    rw [runWord_of_illegal ⟨e, hd⟩, runIllegal_eq] at h
    exact ⟨s, _, (Host.Outcome.next.inj h).symm⟩

/-! ## Every run settles (spec/60_exceptions.md R262, spec/70_reset_and_hazards.md R320) -/

theorem exec_next (i : Instr) (s : State) : ∃ t, exec i s = .next t := exec_eq i s ▸ runCommand_next ..

theorem sequencerTurn_next (s : State) : ∃ t, sequencerTurn s = .next t := by
  unfold sequencerTurn
  split
  · exact ⟨_, rfl⟩
  · exact ⟨_, rfl⟩
  · exact runWord_next _ s

theorem step_next (s : State) : ∃ t, step s = .next t := by
  cases hin : s.inputs with
  | nil =>
    rw [step_of_nil hin]
    exact sequencerTurn_next s
  | cons i rest =>
    rw [step_of_cons hin]
    cases i with
    | bus r => exact ⟨_, rfl⟩
    | sequencer => exact sequencerTurn_next _
    | reset d => exact ⟨_, rfl⟩

/-- A turn of the sequencer ends IDLE. -/
theorem sequencerTurn_seq {s t : State} (h : sequencerTurn s = .next t) : t.seq = .idle := by
  rcases sequencerTurn_cases h with ⟨-, rfl⟩ | ⟨hseq, rfl⟩ | ⟨w, -, hrun⟩
  · rfl
  · exact hseq
  · obtain ⟨u, e, rfl⟩ := runWord_eq_complete hrun
    rfl

theorem sequencerTurn_inputs {s t : State} (h : sequencerTurn s = .next t) : t.inputs = s.inputs := by
  rcases sequencerTurn_cases h with ⟨-, rfl⟩ | ⟨-, rfl⟩ | ⟨w, -, hrun⟩
  · rfl
  · rfl
  · exact (runWord_sameHostSide hrun).inputs

theorem State.writeTarget_inputs (s : State) (v : Word) (x : Target) : (s.writeTarget v x).inputs = s.inputs := by
  cases x <;> simp [State.writeTarget]

/-- What a state has, with OVR set and after a write to any word too, it has after a bus write. -/
theorem State.busWrite_induction {P : State → Prop} {s : State} {v : Word} (hs : P s) (hovr : P { s with ovr := true })
    (htarget : ∀ x, P (s.writeTarget v x)) (a : Addr) : P (s.busWrite a v) := by
  rcases s.busWrite_cases a v with ⟨-, e⟩ | ⟨x, -, ⟨-, -, e⟩ | ⟨-, e⟩⟩
  · rwa [e]
  · rwa [e]
  · exact e ▸ htarget x

theorem busTransaction_inputs (r : BusRequest) (s : State) : (busTransaction r s).inputs = s.inputs := by
  cases r with
  | read a => rfl
  | write a v => exact State.busWrite_induction (P := (·.inputs = s.inputs)) rfl rfl (s.writeTarget_inputs v) a

/-- A step takes one input, if there is one. -/
theorem step_inputs {s t : State} (h : step s = .next t) : t.inputs = s.inputs.tail := by
  rcases step_cases h with ⟨-, hturn⟩ | ⟨r, -, -, rfl⟩ | ⟨d, -, -, rfl⟩
  · exact sequencerTurn_inputs hturn
  · exact busTransaction_inputs r s.takeInput
  · rfl

theorem coreRun_succ {M : Host.Core} {s t : M.State} (h : M.step s = .next t) (k : Nat) :
    M.run (k + 1) s = M.run k t := by
  rw [Host.Core.run, h]

/-- By induction on the inputs: each step takes one, and the step after the last one is a turn of the sequencer. -/
theorem run_settles (inputs : List Input) {s : State} (h : s.inputs = inputs) :
    ∃ t, Host.Core.run core (inputs.length + 1) s = .next t ∧ t.inputs = [] ∧ t.seq = .idle := by
  obtain ⟨t, ht⟩ := step_next s
  rw [coreRun_succ (M := core) ht]
  have hrest := step_inputs ht
  induction inputs generalizing s t with
  | nil =>
    rw [h] at hrest
    exact ⟨t, rfl, hrest, sequencerTurn_seq ((step_of_nil h).symm.trans ht)⟩
  | cons i rest ih =>
    obtain ⟨u, hu⟩ := step_next t
    rw [h] at hrest
    rw [List.length_cons, coreRun_succ (M := core) hu]
    exact ih hrest u hu (step_inputs hu)

/-- Settles O9, by induction on the inputs. -/
theorem everyRunSettles : Obligations.EveryRunSettles :=
  ⟨step_next, exec_next, fun s => run_settles s.inputs rfl⟩

/-! ## The word at an offset (spec/20_memory.md R70) -/

/-- The offset at which the map holds a word (spec/20_memory.md R70). -/
def Target.offset : Target → Nat
  | .id => 0x0000
  | .ctrl => 0x0004
  | .status => 0x0008
  | .cmd => 0x000C
  | .len => 0x0010
  | .gf => 0x0014
  | .ctrLo => 0x0018
  | .ctrHi => 0x001C
  | .key i => 0x0020 + 4 * i.val
  | .state i => 0x0030 + 4 * i.val
  | .tag i => 0x0040 + 4 * i.val
  | .rk k i => 0x0100 + 16 * k.val + 4 * i.val
  | .buf i => 0x1000 + i

/-- An aligned offset names the word that the map holds there, range by range. -/
theorem offset_of_mapOffset {b n : Nat} {x : Target} (h4 : n % 4 = 0) (h : mapOffset b n = some x) : x.offset = n := by
  have ranges : n < 0x0020 ∨ (0x0020 ≤ n ∧ n < 0x0030) ∨ (0x0030 ≤ n ∧ n < 0x0040) ∨
      (0x0040 ≤ n ∧ n < 0x0050) ∨ (0x0100 ≤ n ∧ n < 0x01B0) ∨ (0x1000 ≤ n ∧ n < 0x1000 + b) ∨
      ((0x0050 ≤ n ∧ n < 0x0100) ∨ (0x01B0 ≤ n ∧ n < 0x1000) ∨ (0x1000 ≤ n ∧ 0x1000 + b ≤ n)) := by omega
  have same {y : Target} (e : mapOffset b n = some y) (hy : y.offset = n) : x.offset = n :=
    Option.some.inj (h.symm.trans e) ▸ hy
  rcases ranges with hs | ⟨h1, h2⟩ | ⟨h1, h2⟩ | ⟨h1, h2⟩ | ⟨h1, h2⟩ | ⟨h1, h2⟩ | hole
  · rcases mapOffset_scalar (b := b) hs h4 with
      ⟨hn, e⟩ | ⟨hn, e⟩ | ⟨hn, e⟩ | ⟨hn, e⟩ | ⟨hn, e⟩ | ⟨hn, e⟩ | ⟨hn, e⟩ | ⟨hn, e⟩ <;> exact same e hn.symm
  · exact same (mapOffset_key h1 h2) (by simp only [Target.offset]; omega)
  · exact same (mapOffset_state h1 h2) (by simp only [Target.offset]; omega)
  · exact same (mapOffset_tag h1 h2) (by simp only [Target.offset]; omega)
  · exact same (mapOffset_rk h1 h2) (by simp only [Target.offset]; omega)
  · exact same (mapOffset_buf h1 h2) (by simp only [Target.offset]; omega)
  · cases h.symm.trans (mapOffset_hole hole)

/-- A request that reaches a word is aligned, at the word's offset, and below the end of BUF. -/
theorem State.offset_of_target {s : State} {a : Addr} {x : Target} (h : s.target a = some x) :
    a.toNat % 4 = 0 ∧ x.offset = a.toNat ∧ a.toNat < 0x1000 + s.bufBytes := by
  have hgood := mt (s.target_eq_none_iff a).mpr (h ▸ nofun)
  have h4 : a.toNat % 4 = 0 := by omega
  exact ⟨h4, offset_of_mapOffset h4 ((s.target_of_aligned h4).symm.trans h), by omega⟩

/-! ## RK_VALID (spec/10_state.md R35) -/

/-- A write to a word clears RK_VALID only if the word is one of KEY. -/
theorem State.writeTarget_rkValid (s : State) (v : Word) (x : Target) :
    (s.writeTarget v x).rkValid = s.rkValid ∨ ((s.writeTarget v x).rkValid = false ∧ ∃ i, x = .key i) := by
  cases x with
  | key i => exact .inr ⟨rfl, i, rfl⟩
  | _ => exact .inl (by simp [State.writeTarget])

/-- A bus transaction leaves RK_VALID alone, or it is a write that an idle machine takes for a word of KEY. -/
theorem busTransaction_rkValid (r : BusRequest) (s : State) :
    (busTransaction r s).rkValid = s.rkValid ∨
      ((busTransaction r s).rkValid = false ∧ s.busy = false ∧
        ∃ a v, r = .write a v ∧ 0x0020 ≤ a.toNat ∧ a.toNat < 0x0030 ∧ a.toNat % 4 = 0) := by
  cases r with
  | read a => exact .inl rfl
  | write a v =>
    simp only [busTransaction, State.respond_rkValid]
    rcases s.busWrite_cases a v with ⟨-, e⟩ | ⟨x, hx, ⟨-, -, e⟩ | ⟨hw, e⟩⟩
    · exact .inl (by rw [e])
    · exact .inl (by rw [e])
    · rw [e]
      rcases s.writeTarget_rkValid v x with hsame | ⟨hclear, i, rfl⟩
      · exact .inl hsame
      · obtain ⟨h4, hoffset, -⟩ := State.offset_of_target hx
        have hi := i.isLt
        simp only [Target.offset] at hoffset
        exact .inr ⟨hclear, hw.resolve_right nofun, a, v, rfl, by omega, by omega, h4⟩

/-- A turn of the sequencer leaves RK_VALID alone, or it completes a command that derives round keys. -/
theorem sequencerTurn_rkValid {s t : State} (h : sequencerTurn s = .next t) :
    t.rkValid = s.rkValid ∨
      (t.rkValid = true ∧ t.done = true ∧
        ∃ w i, s.seq = .run w ∧ decode w = .ok i ∧ (i = .expandKey ∨ i = .sealMsg ∨ i = .openMsg)) := by
  rcases sequencerTurn_cases h with ⟨-, rfl⟩ | ⟨-, rfl⟩ | ⟨w, hseq, hrun⟩
  · exact .inl rfl
  · exact .inl rfl
  · cases hd : decode w with
    | ok i =>
      rw [runWord_of_decode hd] at hrun
      rcases exec_rkValid hrun with hsame | ⟨hvalid, hi⟩
      · exact .inl hsame
      · obtain ⟨-, -, hdone, -⟩ := completionBookkeeping i s t hrun
        exact .inr ⟨hvalid, hdone, w, i, hseq, hd, hi⟩
    | error e =>
      rw [runWord_of_illegal ⟨e, hd⟩, runIllegal_eq] at hrun
      exact .inl (congrArg State.rkValid (Host.Outcome.next.inj hrun)).symm

/-- A step leaves RK_VALID alone, sets it by the completion of such a command, or clears it by a reset or a write to KEY. -/
theorem step_rkValid {s t : State} (h : step s = .next t) :
    t.rkValid = s.rkValid ∨
    (t.rkValid = true ∧ s.turnIsNext ∧ t.seq = .idle ∧ t.done = true ∧
      ∃ w i, s.seq = .run w ∧ decode w = .ok i ∧ (i = .expandKey ∨ i = .sealMsg ∨ i = .openMsg)) ∨
    (t.rkValid = false ∧
      ((∃ d rest, s.inputs = .reset d :: rest) ∨
        ∃ a v rest, s.inputs = .bus (.write a v) :: rest ∧ s.busy = false ∧ 0x0020 ≤ a.toNat ∧ a.toNat < 0x0030 ∧
          a.toNat % 4 = 0)) := by
  rcases step_cases h with ⟨hnext, hturn⟩ | ⟨r, rest, hin, rfl⟩ | ⟨d, rest, hin, rfl⟩
  · rcases sequencerTurn_rkValid hturn with hsame | ⟨hvalid, hdone, hcommand⟩
    · exact .inl hsame
    · exact .inr (.inl ⟨hvalid, hnext, sequencerTurn_seq hturn, hdone, hcommand⟩)
  · rcases busTransaction_rkValid r s.takeInput with hsame | ⟨hclear, hidle, a, v, rfl, haddr⟩
    · exact .inl hsame
    · exact .inr (.inr ⟨hclear, .inr ⟨a, v, rest, hin, hidle, haddr⟩⟩)
  · exact .inr (.inr ⟨rfl, .inl ⟨d, rest, hin⟩⟩)

/-- Settles O45: a step that changes RK_VALID is in the second or the third case of `step_rkValid`. -/
theorem rkValidChangesOnlyByRule : Obligations.RkValidChangesOnlyByRule := by
  intro s t h
  rcases step_rkValid h with hsame | ⟨hset, hcompletion⟩ | ⟨hclear, hevent⟩
  · rw [hsame]
    exact ⟨fun h0 h1 => by simp [h0] at h1, fun h1 h0 => by simp [h1] at h0⟩
  · exact ⟨fun _ _ => hcompletion, fun _ h0 => by simp [hset] at h0⟩
  · exact ⟨fun _ h1 => by simp [hclear] at h1, fun _ _ => hevent⟩

end Sys2Proof.Machine

/-! The invariant, kept by every event, and reset: the abandoned command and the self-check. -/

namespace Sys2Proof.Machine

/-! ## Reset (spec/70_reset_and_hazards.md R300) -/

/-- Power-up meets the invariant with any canonical contents of BUF. -/
theorem Inv.powerUp (rom : Rom) (n : BufSize) {m : Memory} (hwf : m.wf) (hin : ∀ c ∈ m, c.1 < n.bytes) (k : RoundKeys)
    (is : List Input) (rs : List Response) : Inv (State.powerUp rom n m k is rs) where
  bufCanonical := hwf
  bufInside := hin
  roundKeysFresh := nofun
  sboxOkIsVerdict := by simp
  runningIsAccepted := nofun
  failureStays := fun _ => ⟨rfl, nofun⟩
  selfCheckClean := fun _ => by simp

/-- Settles O59: reset is power-up with nothing written in BUF. -/
theorem resetMeetsTheInvariant : Obligations.ResetMeetsTheInvariant :=
  .powerUp _ _ ⟨.nil, nofun⟩ nofun _ _ _

theorem State.bufAfterReset_of_run {s t : State} {w : Word} (hseq : s.seq = .run w) (h : runWord w s = .next t)
    (landed : List Nat) : s.bufAfterReset landed = landBytes s.buf t.buf landed := by
  simp [State.bufAfterReset, hseq, h]

theorem State.bufAfterReset_of_not_run {s : State} (h : ∀ w, s.seq ≠ .run w) (landed : List Nat) :
    s.bufAfterReset landed = s.buf := by
  cases hseq : s.seq with
  | selftest => simp [State.bufAfterReset, hseq]
  | idle => simp [State.bufAfterReset, hseq]
  | run w => exact absurd hseq (h w)

/-- A command that ends with an error has written no byte of BUF. -/
theorem runWord_buf_of_error {w : Word} {s t : State} (h : runWord w s = .next t) (herr : t.err ≠ .none) :
    t.buf = s.buf := by
  rcases runWord_outcomes h with hnone | ⟨-, e⟩ | ⟨-, rfl⟩
  · exact absurd hnone herr
  · rw [e, State.complete_buf]
  · rfl

/-- Settles O57: reset is power-up but for BUF, in which the abandoned command has landed the bytes of the draw. -/
theorem resetAbandonsTheCommand : Obligations.ResetAbandonsTheCommand := by
  refine fun s d => ⟨rfl, fun hrun => State.bufAfterReset_of_not_run hrun d.landed, fun w t hseq h hb => ?_⟩
  have hread (i : Nat) : (s.assertReset d).buf.read i = if i ∈ d.landed then t.buf.read i else s.buf.read i := by
    rw [State.assertReset, State.powerUp_buf, State.bufAfterReset_of_run hseq h, read_landBytes hb]
  refine ⟨hread, fun herr i => ?_⟩
  rw [hread, runWord_buf_of_error h herr, ite_self]

/-! ## The self-check (spec/70_reset_and_hazards.md R301, R304) -/

theorem State.busy_of_selftest {s : State} (h : s.seq = .selftest) : s.busy = true := by
  simp [State.busy, h]

theorem step_of_selftest {s : State} (hseq : s.seq = .selftest) (hin : s.inputs = []) :
    step s = .next s.selfCheck := by
  rw [step_of_nil hin, sequencerTurn_of_selftest hseq]

/-- On a correct part the self-check leaves the reset values, with SBOX_OK = 1. -/
theorem cleanEntry_selfCheck_powerUp {rom : Rom} (h : rom.pairOk = true) (n : BufSize) (m : Memory) (k : RoundKeys)
    (is : List Input) (rs : List Response) : CleanEntry (State.powerUp rom n m k is rs).selfCheck := by
  constructor <;> simp [h]

/-- Settles O58: the step after reset is the self-check, whose verdict is the pair property of the tables. -/
theorem selfCheckReachesCleanEntry : Obligations.SelfCheckReachesCleanEntry :=
  ⟨fun _ => State.busy_of_selftest, fun _ => step_of_selftest, Rom.pairOk_iff, fun n m k rs =>
    ⟨_, step_of_selftest rfl rfl, cleanEntry_selfCheck_powerUp Rom.standard_pairOk n m k [] rs, rfl⟩⟩

/-! ## Every event keeps the invariant -/

/-- The invariant speaks of nothing outside the part. -/
theorem Inv.takeInput {s : State} (h : Inv s) : Inv s.takeInput := by
  cases h
  constructor <;> assumption

theorem Inv.respond {s : State} (h : Inv s) (r : Response) : Inv (s.respond r) := by
  cases h
  constructor <;> assumption

theorem Inv.setOverrun {s : State} (h : Inv s) : Inv { s with ovr := true } := by
  cases h
  constructor <;> assumption

theorem Inv.writeCtrl {s : State} (h : Inv s) (v : Word) : Inv (s.writeCtrl v) := by
  cases h
  constructor <;> assumption

/-- A W1C write can only clear DONE, which is 0 in the states that the invariant says it of. -/
theorem Inv.writeStatus {s : State} (h : Inv s) (v : Word) : Inv (s.writeStatus v) where
  bufCanonical := h.bufCanonical
  bufInside := h.bufInside
  roundKeysFresh := h.roundKeysFresh
  sboxOkIsVerdict := h.sboxOkIsVerdict
  runningIsAccepted := fun w hw => by
    obtain ⟨hcmd, hdone, herr⟩ := h.runningIsAccepted w hw
    exact ⟨hcmd, by simp [hdone], herr⟩
  failureStays := h.failureStays
  selfCheckClean := fun hs => by
    obtain ⟨hdone, hrest⟩ := h.selfCheckClean hs
    exact ⟨by simp [hdone], hrest⟩

/-- What the invariant says of an idle machine. -/
theorem Inv.of_idle {s : State} (hseq : s.seq = .idle) (hwf : s.buf.wf) (hin : ∀ c ∈ s.buf, c.1 < s.bufBytes)
    (hrk : s.rkValid = true → s.rk = expand s.rom s.key) (hok : s.sboxOk = s.rom.pairOk)
    (hfail : s.rom.pairOk = false → s.rkValid = false ∧ s.err = .sboxInitFailure) : Inv s where
  bufCanonical := hwf
  bufInside := hin
  roundKeysFresh := hrk
  sboxOkIsVerdict := by rw [hok, bne_iff_ne.mpr (show s.seq ≠ .selftest by simp [hseq]), Bool.and_true]
  runningIsAccepted := by simp [hseq]
  failureStays := fun hbad => (hfail hbad).imp_right fun herr _ => herr
  selfCheckClean := by simp [hseq]

theorem Inv.sboxOk_eq_pairOk {s : State} (h : Inv s) (hseq : s.seq ≠ .selftest) : s.sboxOk = s.rom.pairOk := by
  rw [h.sboxOkIsVerdict, bne_iff_ne.mpr hseq, Bool.and_true]

/-- A CMD write of an idle machine: the word runs as accepted, and ERR may change, since the machine is not idle after it. -/
theorem Inv.accept {s : State} (h : Inv s) (hidle : s.seq = .idle) (w : Word) : Inv (s.accept w) where
  bufCanonical := h.bufCanonical
  bufInside := h.bufInside
  roundKeysFresh := h.roundKeysFresh
  sboxOkIsVerdict := (h.sboxOk_eq_pairOk (by simp [hidle])).trans (Bool.and_true _).symm
  runningIsAccepted := by simp
  failureStays := fun hbad => ⟨(h.failureStays hbad).1, nofun⟩
  selfCheckClean := nofun

/-- A write that an idle machine takes; a BUF word lies inside BUF. -/
theorem Inv.writeTarget {s : State} (h : Inv s) (hidle : s.seq = .idle) (v : Word) {x : Target}
    (hx : ∀ i, x = .buf i → i + 4 ≤ s.bufBytes) : Inv (s.writeTarget v x) := by
  have hok := h.sboxOk_eq_pairOk (by simp [hidle])
  have hfail (hbad : s.rom.pairOk = false) : s.rkValid = false ∧ s.err = .sboxInitFailure :=
    (h.failureStays hbad).imp_right fun herr => herr hidle
  cases x with
  | id => exact h
  | tag i => exact h
  | rk k i => exact h
  | ctrl => exact h.writeCtrl v
  | status => exact h.writeStatus v
  | cmd => exact h.accept hidle v
  | key i => exact .of_idle hidle h.bufCanonical h.bufInside nofun hok fun hbad => ⟨rfl, (hfail hbad).2⟩
  | buf i =>
    exact .of_idle hidle (Memory.wf_writeBytes h.bufCanonical) (Memory.inside_writeBytes h.bufInside (hx i rfl))
      h.roundKeysFresh hok hfail
  | state i =>
    have hwrite (b : Block) : Inv (s.writeState b) :=
      .of_idle hidle h.bufCanonical h.bufInside h.roundKeysFresh hok hfail
    exact hwrite (setBlockWord s.state i v)
  | _ => exact .of_idle hidle h.bufCanonical h.bufInside h.roundKeysFresh hok hfail

/-- CTRL and STATUS take a write at any time. -/
theorem Inv.writeTarget_of_writable {s : State} (h : Inv s) (v : Word) {x : Target}
    (hx : x.writableWhileBusy = true) : Inv (s.writeTarget v x) := by
  cases x with
  | ctrl => exact h.writeCtrl v
  | status => exact h.writeStatus v
  | _ => cases hx

theorem State.seq_of_not_busy {s : State} (h : s.busy = false) : s.seq = .idle := by
  simpa [State.busy] using h

/-- An aligned word that starts inside BUF ends inside it, since BUF_BYTES is a multiple of 4. -/
theorem State.buf_word_inside {s : State} {a : Addr} {i : Nat} (h : s.target a = some (.buf i)) :
    i + 4 ≤ s.bufBytes := by
  obtain ⟨h4, hoffset, hend⟩ := State.offset_of_target h
  have hsize : s.bufBytes % 16 = 0 := BufSize.bytes_mod s.bufSize
  simp only [Target.offset] at hoffset
  omega

theorem Inv.busWrite {s : State} (h : Inv s) (a : Addr) (v : Word) : Inv (s.busWrite a v) := by
  rcases s.busWrite_cases a v with ⟨-, e⟩ | ⟨x, hx, ⟨-, -, e⟩ | ⟨hidle | hw, e⟩⟩
  · rwa [e]
  · exact e ▸ h.setOverrun
  · rw [e]
    refine h.writeTarget (State.seq_of_not_busy hidle) v fun i hi => ?_
    exact State.buf_word_inside (hi ▸ hx)
  · exact e ▸ h.writeTarget_of_writable v hw

theorem Inv.busTransaction {s : State} (h : Inv s) (r : BusRequest) : Inv (busTransaction r s) := by
  cases r with
  | read a => exact h.respond _
  | write a v => exact (h.busWrite a v).respond _

theorem Inv.assertReset {s : State} (h : Inv s) (d : ResetDraw) : Inv (s.assertReset d) := by
  by_cases hrun : ∃ w, s.seq = .run w
  · obtain ⟨w, hseq⟩ := hrun
    obtain ⟨t, ht⟩ := runWord_next w s
    have hstores := runWord_storesAtMost ht
    rw [State.assertReset, State.bufAfterReset_of_run hseq ht]
    exact .powerUp _ _ (wf_landBytes h.bufCanonical) (inside_landBytes h.bufInside (hstores.inside h.bufInside)) _ _ _
  · rw [State.assertReset, State.bufAfterReset_of_not_run (not_exists.mp hrun)]
    exact .powerUp _ _ h.bufCanonical h.bufInside _ _ _

theorem Inv.selfCheck {s : State} (h : Inv s) (hseq : s.seq = .selftest) : Inv s.selfCheck := by
  obtain ⟨-, -, hv, -⟩ := h.selfCheckClean hseq
  exact .of_idle rfl h.bufCanonical h.bufInside h.roundKeysFresh rfl fun hbad =>
    ⟨hv, if_neg (Bool.eq_false_iff.mp hbad)⟩

/-- A command leaves RK and RK_VALID alone, or derives RK from KEY. -/
def KeepsOrDerivesRk (s t : State) : Prop :=
  (t.rk = s.rk ∧ t.rkValid = s.rkValid) ∨ t.rk = expand s.rom s.key

theorem commandEffect_keepsOrDerivesRk (i : Instr) (s : State) : KeepsOrDerivesRk s (commandEffect i s).1 := by
  cases i with
  | addRoundKey k =>
    obtain ⟨b, e⟩ := commandEffect_addRoundKey_fst k s
    exact .inl (by simp [e])
  | expandKey => exact .inr (by simp)
  | sealMsg => exact .inr (by simp)
  | openMsg => rcases commandEffect_openMsg_fst s with e | ⟨pt, -, e⟩ <;> exact .inr (by simp [e])
  | _ => exact .inl (by simp)

theorem runWord_keepsOrDerivesRk {w : Word} {s t : State} (h : runWord w s = .next t) : KeepsOrDerivesRk s t :=
  runWord_induction (P := KeepsOrDerivesRk s) h (fun _ _ hu => hu) (.inl ⟨rfl, rfl⟩)
    fun i _ _ => commandEffect_keepsOrDerivesRk i s

/-- With correct tables a completion only needs the frames of the command; with failed ones the command only completes. -/
theorem Inv.runWord {s t : State} {w : Word} (h : Inv s) (hseq : s.seq = .run w) (hrun : runWord w s = .next t) :
    Inv t := by
  have hok := h.sboxOk_eq_pairOk (by simp [hseq])
  have hhost := runWord_sameHostSide hrun
  have hstores := runWord_storesAtMost hrun
  obtain ⟨u, e, ht⟩ := runWord_eq_complete hrun
  have hidle : t.seq = .idle := ht ▸ rfl
  have hsize : t.bufBytes = s.bufBytes := congrArg BufSize.bytes hhost.bufSize
  refine .of_idle hidle (hstores.wf h.bufCanonical) (hsize ▸ hstores.inside h.bufInside) (fun hv => ?_) ?_
    fun hbad => ?_
  · rw [hhost.rom, hhost.key]
    rcases runWord_keepsOrDerivesRk hrun with ⟨hrk, hvalid⟩ | hrk
    · rw [hrk, h.roundKeysFresh (hvalid ▸ hv)]
    · exact hrk
  · rw [hhost.sboxOk, hhost.rom, hok]
  · rw [hhost.rom] at hbad
    rw [runWord_sboxFailure w (hok.trans hbad)] at hrun
    cases hrun
    exact ⟨(h.failureStays hbad).1, rfl⟩

theorem Inv.sequencerTurn {s t : State} (h : Inv s) (hturn : sequencerTurn s = .next t) : Inv t := by
  rcases sequencerTurn_cases hturn with ⟨hseq, rfl⟩ | ⟨-, rfl⟩ | ⟨w, hseq, hrun⟩
  · exact h.selfCheck hseq
  · exact h
  · exact h.runWord hseq hrun

/-- Settles O60: a turn of the sequencer, a bus transaction and a reset each keep the invariant. -/
theorem everyStepKeepsTheInvariant : Obligations.EveryStepKeepsTheInvariant := by
  intro s t h hstep
  rcases step_cases hstep with ⟨-, hturn⟩ | ⟨r, -, -, rfl⟩ | ⟨d, -, -, rfl⟩
  · exact h.takeInput.sequencerTurn hturn
  · exact h.takeInput.busTransaction r
  · exact h.takeInput.assertReset d

end Sys2Proof.Machine

/-! The bus while idle: which word an address reaches, byte lanes, and what reads and writes of each word do. -/

namespace Sys2Proof.Machine

/-! ## Responses (spec/20_memory.md R61, R68) -/

theorem State.writeTarget_responses (s : State) (v : Word) (x : Target) :
    (s.writeTarget v x).responses = s.responses := by
  cases x <;> simp [State.writeTarget]

theorem State.busWrite_responses (s : State) (a : Addr) (v : Word) : (s.busWrite a v).responses = s.responses :=
  State.busWrite_induction (P := (·.responses = s.responses)) rfl rfl (s.writeTarget_responses v) a

/-- Settles O47: a transaction adds its response, and the write itself adds none. -/
theorem readsHaveNoSideEffect : Obligations.ReadsHaveNoSideEffect := by
  refine fun s a v => ⟨rfl, ?_⟩
  rw [busTransaction, State.respond_responses, State.busWrite_responses]

/-! ## The word at an offset (spec/20_memory.md R70) -/

/-- A BUF word starts at a multiple of 4 inside BUF; every other word is in the map as it is. -/
def Target.inMap (bufBytes : Nat) : Target → Prop
  | .buf i => i % 4 = 0 ∧ i < bufBytes
  | _ => True

/-- The map holds each word at its offset. -/
theorem mapOffset_offset {b : Nat} {x : Target} (hx : x.inMap b) :
    mapOffset b x.offset = some x ∧ x.offset % 4 = 0 := by
  cases x with
  | key i =>
    rw [Target.offset, mapOffset_key (by omega) (by omega)]
    exact ⟨by simp, by omega⟩
  | state i =>
    rw [Target.offset, mapOffset_state (by omega) (by omega)]
    exact ⟨by simp, by omega⟩
  | tag i =>
    rw [Target.offset, mapOffset_tag (by omega) (by omega)]
    exact ⟨by simp, by omega⟩
  | rk k i =>
    have hk : (0x0100 + 16 * k.val + 4 * i.val - 0x0100) / 16 = k := by omega
    have hi : (0x0100 + 16 * k.val + 4 * i.val - 0x0100) % 16 / 4 = i := by omega
    rw [Target.offset, mapOffset_rk (by omega) (by omega)]
    exact ⟨by simp only [hk, hi], by omega⟩
  | buf i =>
    obtain ⟨h4, hi⟩ := hx
    rw [Target.offset, mapOffset_buf (by omega) (by omega), Nat.add_sub_cancel_left]
    exact ⟨rfl, by omega⟩
  | _ => exact ⟨rfl, rfl⟩

theorem State.target_of_offset {s : State} {a : Addr} {x : Target} (ha : a.toNat = x.offset)
    (hx : x.inMap s.bufBytes) : s.target a = some x := by
  obtain ⟨hmap, h4⟩ := mapOffset_offset hx
  rw [s.target_of_aligned (ha ▸ h4), ha, hmap]

theorem State.busRead_of_offset {s : State} {a : Addr} {x : Target} (ha : a.toNat = x.offset)
    (hx : x.inMap s.bufBytes) (hidle : s.busy = false) : s.busRead a = .ok (s.readTarget x) :=
  State.busRead_of_readable (State.target_of_offset ha hx) (.inl hidle)

theorem State.busWrite_of_offset {s : State} {a : Addr} {x : Target} (ha : a.toNat = x.offset)
    (hx : x.inMap s.bufBytes) (hidle : s.busy = false) (v : Word) : s.busWrite a v = s.writeTarget v x :=
  State.busWrite_of_writable (State.target_of_offset ha hx) (.inl hidle) v

/-! ## Byte lanes (spec/20_memory.md R63) -/

/-- Lane l of a word put together from the bytes f 0 to f 3. -/
theorem byteLane_wordOfBytes_fin (f : Fin 4 → Byte) (l : Fin 4) :
    byteLane (wordOfBytes (f 0) (f 1) (f 2) (f 3)) l = f l := by
  obtain ⟨h0, h1, h2, h3⟩ := byteLane_wordOfBytes (f 0) (f 1) (f 2) (f 3)
  fin_cases l <;> assumption

theorem byteLane_blockWord (b : Block) (i l : Fin 4) : byteLane (blockWord b i) l = b[4 * i.val + l.val] :=
  byteLane_wordOfBytes_fin (fun l => b[4 * i.val + l.val]) l

theorem byteLane_readTarget_buf (s : State) (i : Nat) (l : Fin 4) :
    byteLane (s.readTarget (.buf i)) l = s.buf.read (i + l.val) :=
  byteLane_wordOfBytes_fin (fun l => s.buf.read (i + l.val)) l

theorem byteLane_idValue (l : Fin 4) :
    byteLane Config.idValue l = (#v[0x31, 0x53, 0x45, 0x41] : Vector Byte 4)[l] := by
  revert l
  decide

theorem getElem_setBlockWord (b : Block) (i : Fin 4) (v : Word) {j : Nat} (hj : j < 16) :
    (setBlockWord b i v)[j] = if j / 4 = i.val then byteLane v (j % 4) else b[j] := by
  simp [setBlockWord]

/-- A 16-byte register at an address, byte by byte after a write of v to the address n of its word i. -/
theorem getElem_setBlockWord_at {base n : Nat} {i : Fin 4} (hn : n = base + 4 * i.val) (b : Block) (v : Word)
    (j : Fin 16) :
    (setBlockWord b i v)[j] =
      if base + j.val < n ∨ n + 4 ≤ base + j.val then b[j] else v.extractLsb' (8 * (base + j.val - n)) 8 := by
  rw [Fin.getElem_fin, getElem_setBlockWord]
  by_cases hword : j.val / 4 = i.val
  · have hlane : j.val % 4 = base + j.val - n := by omega
    rw [if_pos hword, if_neg (by omega), byteLane, hlane]
  · rw [if_neg hword, if_pos (by omega)]
    rfl

theorem getElem_lanes (v : Word) {l : Nat} (hl : l < 4) :
    ([byteLane v 0, byteLane v 1, byteLane v 2, byteLane v 3] : List Byte)[l] = byteLane v l := by
  interval_cases l <;> rfl

/-- BUF byte by byte after a write of v to the address n of the word that starts at BUF[i]. -/
theorem read_writeTarget_buf_at {s : State} (hb : s.buf.wf) {base n i : Nat} (hn : n = base + i) (v : Word) (j : Nat) :
    (s.writeTarget v (.buf i)).buf.read j =
      if base + j < n ∨ n + 4 ≤ base + j then s.buf.read j else v.extractLsb' (8 * (base + j - n)) 8 := by
  have hlen : [byteLane v 0, byteLane v 1, byteLane v 2, byteLane v 3].length = 4 := rfl
  rw [State.writeTarget]
  split
  case isTrue hout => exact Memory.read_writeBytes_outside (by omega)
  case isFalse hin =>
    obtain ⟨l, rfl⟩ : ∃ l, j = i + l := ⟨j - i, by omega⟩
    have hl : base + (i + l) - n = l := by omega
    rw [Memory.read_writeBytes_inside hb (by omega), getElem_lanes v (by omega), hl, byteLane]

/-! ## Idle reads (spec/20_memory.md R63, spec/10_state.md R34) -/

/-- Settles O51, word by word: each reads in the lanes of its bytes. -/
theorem idleReadsInByteLanes : Obligations.IdleReadsInByteLanes := by
  refine fun s a i b hidle => ⟨fun ha => ?_, fun ha => ?_, fun hi ha => ?_, fun hi ha => ?_, fun hi ha => ?_,
    fun hi ha => ?_⟩
  · rw [State.busRead_of_offset (x := .cmd) ha trivial hidle]
    rfl
  · rw [State.busRead_of_offset (x := .id) ha trivial hidle]
    exact ⟨rfl, byteLane_idValue b⟩
  · rw [State.busRead_of_offset (x := .key ⟨i, hi⟩) ha trivial hidle]
    exact ⟨rfl, byteLane_blockWord s.key ⟨i, hi⟩ b⟩
  · rw [State.busRead_of_offset (x := .state ⟨i, hi⟩) ha trivial hidle]
    exact ⟨rfl, byteLane_blockWord s.state ⟨i, hi⟩ b⟩
  · rw [State.busRead_of_offset (x := .tag ⟨i, hi⟩) ha trivial hidle]
    exact ⟨rfl, byteLane_blockWord s.tag ⟨i, hi⟩ b⟩
  · rw [State.busRead_of_offset (x := .buf (4 * i)) ha ⟨by omega, hi⟩ hidle]
    exact ⟨rfl, byteLane_readTarget_buf s (4 * i) b⟩

theorem State.readTarget_rk_of_valid {s : State} (h : s.rkValid = true) (k : Fin 11) (i : Fin 4) :
    s.readTarget (.rk k i) = blockWord s.rk[k] i := by
  simp [State.readTarget, h]

theorem State.readTarget_rk_of_not_valid {s : State} (h : s.rkValid = false) (k : Fin 11) (i : Fin 4) :
    s.readTarget (.rk k i) = 0 := by
  simp [State.readTarget, h]

/-- Settles O54: the word of RK[k], or 0, as RK_VALID says. -/
theorem roundKeysReadBack : Obligations.RoundKeysReadBack := by
  intro s a k j b hidle ha
  rw [State.busRead_of_offset (x := .rk k j) ha trivial hidle]
  refine ⟨rfl, fun hv => ?_, fun hv => ?_⟩
  · exact State.readTarget_rk_of_not_valid hv k j
  · rw [State.readTarget_rk_of_valid hv]
    exact byteLane_blockWord s.rk[k] j b

/-! ## Idle writes (spec/20_memory.md R72, spec/10_state.md R31) -/

/-- The word of a 16-byte register at an aligned address in its 16 bytes. -/
theorem exists_word_of_aligned {base n : Nat} (hbase : base % 4 = 0) (h4 : n % 4 = 0) (h1 : base ≤ n)
    (h2 : n < base + 16) : ∃ i : Fin 4, n = base + 4 * i.val :=
  ⟨⟨(n - base) / 4, by omega⟩, by simp only; omega⟩

/-- Settles O52: the write stores one word of KEY and clears RK_VALID. -/
theorem keyWriteClearsRkValid : Obligations.KeyWriteClearsRkValid := by
  intro s a v hidle h4 h1 h2
  obtain ⟨i, ha⟩ := exists_word_of_aligned (by decide) h4 h1 h2
  rw [State.busWrite_of_offset (x := .key i) ha trivial hidle]
  exact ⟨_, rfl, rfl, getElem_setBlockWord_at ha s.key v⟩

theorem busTransaction_write_readOnly {s : State} {a : Addr} {x : Target} (ha : s.target a = some x)
    (hidle : s.busy = false) {v : Word} (hx : s.writeTarget v x = s) :
    busTransaction (.write a v) s = { s with responses := ⟨0, false⟩ :: s.responses } := by
  rw [busTransaction, State.busWrite_of_writable ha (.inl hidle), hx, State.busWriteResponse_of_some ha]
  rfl

/-- Settles O53: ID, TAG and RK ignore the write. -/
theorem readOnlyWordsIgnoreWrites : Obligations.ReadOnlyWordsIgnoreWrites := by
  intro s a v hidle h4 hrange
  have htarget := s.target_of_aligned h4
  rcases hrange with hid | ⟨h1, h2⟩ | ⟨h1, h2⟩
  · exact busTransaction_write_readOnly (x := .id) (State.target_of_offset hid trivial) hidle rfl
  · exact busTransaction_write_readOnly (htarget.trans (mapOffset_tag h1 h2)) hidle rfl
  · exact busTransaction_write_readOnly (htarget.trans (mapOffset_rk h1 h2)) hidle rfl

/-! ## Words that read back (spec/10_state.md R22, R28, R33, R36) -/

/-- The words that store all 32 bits of a write and read them back. -/
def Target.isStored : Target → Prop
  | .len => True
  | .ctrLo => True
  | .ctrHi => True
  | .key _ => True
  | .state _ => True
  | .buf _ => True
  | _ => False

theorem exists_stored_target {s : State} {a : Addr} (h4 : a.toNat % 4 = 0)
    (h : a.toNat = 0x0010 ∨ (0x0018 ≤ a.toNat ∧ a.toNat < 0x0040) ∨
      (0x1000 ≤ a.toNat ∧ a.toNat < 0x1000 + s.bufBytes)) :
    ∃ x, s.target a = some x ∧ x.isStored := by
  have ranges : a.toNat = 0x0010 ∨ a.toNat = 0x0018 ∨ a.toNat = 0x001C ∨ (0x0020 ≤ a.toNat ∧ a.toNat < 0x0030) ∨
      (0x0030 ≤ a.toNat ∧ a.toNat < 0x0040) ∨ (0x1000 ≤ a.toNat ∧ a.toNat < 0x1000 + s.bufBytes) := by omega
  have htarget := s.target_of_aligned h4
  rcases ranges with hlen | hlo | hhi | ⟨h1, h2⟩ | ⟨h1, h2⟩ | ⟨h1, h2⟩
  · exact ⟨.len, State.target_of_offset hlen trivial, trivial⟩
  · exact ⟨.ctrLo, State.target_of_offset hlo trivial, trivial⟩
  · exact ⟨.ctrHi, State.target_of_offset hhi trivial, trivial⟩
  · exact ⟨_, htarget.trans (mapOffset_key h1 h2), trivial⟩
  · exact ⟨_, htarget.trans (mapOffset_state h1 h2), trivial⟩
  · exact ⟨_, htarget.trans (mapOffset_buf h1 h2), trivial⟩

theorem readTarget_writeTarget_buf {s : State} (hb : s.buf.wf) (v : Word) (i : Nat) :
    (s.writeTarget v (.buf i)).readTarget (.buf i) = v := by
  have hread (l : Nat) (hl : l < 4) : (s.writeTarget v (.buf i)).buf.read (i + l) = byteLane v l := by
    rw [read_writeTarget_buf_at hb (Nat.zero_add i).symm, if_neg (by omega), byteLane]
    congr 2
    omega
  rw [State.readTarget, hread 1 (by decide), hread 2 (by decide), hread 3 (by decide)]
  rw [show (s.writeTarget v (.buf i)).buf.read i = byteLane v 0 from hread 0 (by decide), wordOfBytes_byteLane]

theorem readTarget_writeTarget {s : State} (hb : s.buf.wf) (v : Word) {x : Target} (hx : x.isStored) :
    (s.writeTarget v x).readTarget x = v := by
  cases x with
  | len => rfl
  | ctrLo => rfl
  | ctrHi => rfl
  | key i => exact blockWord_setBlockWord s.key i v
  | state i => exact blockWord_setBlockWord s.state i v
  | buf i => exact readTarget_writeTarget_buf hb v i
  | _ => cases hx

/-- Of all words only CMD starts something when it is written. -/
theorem State.writeTarget_seq (s : State) (v : Word) {x : Target} (hx : x.isStored) :
    (s.writeTarget v x).seq = s.seq := by
  cases x with
  | cmd => cases hx
  | _ => simp [State.writeTarget]

theorem State.writeTarget_busy (s : State) (v : Word) {x : Target} (hx : x.isStored) :
    (s.writeTarget v x).busy = s.busy := by
  rw [State.busy, State.writeTarget_seq s v hx, State.busy]

theorem State.writeTarget_target (s : State) (v : Word) (x : Target) (a : Addr) :
    (s.writeTarget v x).target a = s.target a := by
  have hsize : (s.writeTarget v x).bufSize = s.bufSize := by cases x <;> simp [State.writeTarget]
  rw [State.target, State.target, State.bufBytes, State.bufBytes, hsize]

theorem busRead_busWrite {s : State} {a : Addr} {x : Target} (ha : s.target a = some x) (hx : x.isStored)
    (hidle : s.busy = false) (hb : s.buf.wf) (v : Word) : (s.busWrite a v).busRead a = ⟨v, false⟩ := by
  rw [State.busWrite_of_writable ha (.inl hidle),
    State.busRead_of_readable ((s.writeTarget_target v x a).trans ha) (.inl ((s.writeTarget_busy v hx).trans hidle)),
    readTarget_writeTarget hb v hx]
  rfl

/-! ## GF and CTRL (spec/10_state.md R25, R29) -/

/-- The two low lanes of a word are its low half. -/
theorem append_lanes (p : BitVec 16) (v : Word) : (p ++ byteLane v 1) ++ byteLane v 0 = p ++ v.extractLsb' 0 16 := by
  have half : byteLane v 1 ++ byteLane v 0 = v.extractLsb' 0 16 :=
    BitVec.extractLsb'_append_extractLsb'_eq_extractLsb' (show 8 = 0 + 8 from rfl)
  rw [← half, BitVec.append_assoc]
  rfl

theorem State.ctrlWord_eq (s : State) : s.ctrlWord = (BitVec.ofBool s.ie).setWidth 32 := by
  rw [State.ctrlWord, flagBit, BitVec.setWidth_eq_append (by decide)]
  rfl

theorem State.ctrlWord_fields (s : State) : s.ctrlWord.getLsbD 0 = s.ie ∧ s.ctrlWord.extractLsb' 1 31 = 0 := by
  rw [State.ctrlWord_eq]
  cases s.ie <;> decide

theorem State.ctrlWord_writeCtrl (s : State) (v : Word) : (s.writeCtrl v).ctrlWord = v &&& 1 := by
  rw [State.ctrlWord_eq, State.writeCtrl_ie]
  exact BitVec.and_one_eq_setWidth_ofBool_getLsbD.symm

/-- Settles O50: a stored word is its 32 bits, STATE and BUF are stored by lane, and GF and CTRL by their fields. -/
theorem writableWordsReadBack : Obligations.WritableWordsReadBack := by
  intro s a v h4
  refine ⟨fun hidle hb hrange => ?_, fun hidle ha => ?_, fun hidle ha => ?_, fun hidle ha => ?_, fun hidle ha => ?_,
    fun hidle h1 h2 => ?_, fun hidle hb h1 h2 => ?_, fun ha => ?_⟩
  · obtain ⟨x, hx, hstored⟩ := exists_stored_target h4 hrange
    exact busRead_busWrite hx hstored hidle hb v
  · exact State.busWrite_of_offset (x := .len) ha trivial hidle v
  · exact State.busWrite_of_offset (x := .ctrLo) ha trivial hidle v
  · exact State.busWrite_of_offset (x := .ctrHi) ha trivial hidle v
  · rw [State.busWrite_of_offset (x := .gf) ha trivial hidle]
    refine ⟨rfl, ?_⟩
    rw [State.busRead_of_offset (s := s.writeTarget v .gf) (x := .gf) ha trivial hidle]
    exact congrArg Response.ok (append_lanes (0#8 ++ s.gfP) v)
  · obtain ⟨i, ha⟩ := exists_word_of_aligned (by decide) h4 h1 h2
    rw [State.busWrite_of_offset (x := .state i) ha trivial hidle]
    exact ⟨_, rfl, rfl, getElem_setBlockWord_at ha s.state v⟩
  · have ha : a.toNat = 0x1000 + (a.toNat - 0x1000) := by omega
    rw [State.busWrite_of_offset (x := .buf (a.toNat - 0x1000)) ha ⟨by omega, by omega⟩ hidle]
    exact ⟨_, rfl, rfl, read_writeTarget_buf_at hb ha v⟩
  · obtain rfl : a = 0x0004 := BitVec.eq_of_toNat_eq ha
    have hread (t : State) : t.busRead 0x0004 = ⟨t.ctrlWord, false⟩ := (busyReadsAnswerZero t 0x0004 rfl).2.2.1 rfl
    obtain ⟨hie, hres⟩ := s.ctrlWord_fields
    rw [State.busWrite_ctrl, hread, hread, State.ctrlWord_writeCtrl]
    exact ⟨rfl, rfl, hie, hres, rfl⟩

/-! ## STATUS (spec/10_state.md R26) -/

theorem State.statusWord_flags (s : State) :
    s.statusWord.getLsbD 0 = s.busy ∧ s.statusWord.getLsbD 1 = s.done ∧ s.statusWord.getLsbD 2 = s.ovr ∧
    s.statusWord.getLsbD 3 = s.rkValid ∧ s.statusWord.getLsbD 4 = s.sboxOk := by
  simp only [State.statusWord, flagBit, BitVec.getLsbD_append]
  simp

/-- The fields above the five flags. -/
theorem State.extractLsb'_statusWord (s : State) {i : Nat} (hi : 5 ≤ i) (n : Nat) :
    s.statusWord.extractLsb' i n = (0#20 ++ s.err.code ++ 0#3).extractLsb' (i - 5) n := by
  simp (disch := omega) only [State.statusWord, BitVec.extractLsb'_append_eq_of_le, Nat.sub_sub]

theorem State.statusWord_fields (s : State) :
    s.statusWord.extractLsb' 5 3 = 0 ∧ s.statusWord.extractLsb' 8 4 = s.err.code ∧
      s.statusWord.extractLsb' 12 20 = 0 := by
  refine ⟨?_, ?_, ?_⟩
  · rw [State.extractLsb'_statusWord s (by decide), BitVec.extractLsb'_append_eq_of_add_le (by decide)]
    rfl
  · rw [State.extractLsb'_statusWord s (by decide), BitVec.extractLsb'_append_eq_of_le (by decide),
      BitVec.extractLsb'_append_eq_of_add_le (by decide)]
    exact BitVec.extractLsb'_eq_self
  · rw [State.extractLsb'_statusWord s (by decide), BitVec.extractLsb'_append_eq_of_le (by decide),
      BitVec.extractLsb'_append_eq_of_le (by decide)]
    rfl

theorem State.writeStatus_eq (s : State) (v : Word) :
    s.writeStatus v =
      { s with
        done := if v.getLsbD 1 then false else s.done
        ovr := if v.getLsbD 2 then false else s.ovr } := by
  have clear (d b : Bool) : (d && !b) = if b then false else d := by cases b <;> simp
  rw [State.writeStatus, clear, clear]

/-- Settles O55: STATUS is readable and writable at any time, and its fields stand where the word puts them. -/
theorem statusRegister : Obligations.StatusRegister := by
  intro s v
  have hread : (s.busRead 0x0008).data = s.statusWord :=
    congrArg Response.data (State.busRead_of_readable (x := .status) rfl (.inr rfl))
  obtain ⟨hbusy, hdone, hovr, hrk, hok⟩ := s.statusWord_flags
  obtain ⟨hres, herr, hres'⟩ := s.statusWord_fields
  rw [hread, State.busWrite_status, State.writeStatus_eq]
  exact ⟨hbusy, hdone, hovr, hrk, hok, hres, herr, hres', rfl⟩

/-! ## WRB to KEY (spec/30_encoding.md R102) -/

/-- The write of word i of b to word i of KEY. -/
def keyWrite (b : Block) (i : Fin 4) : Addr × Word := (BitVec.ofNat 16 (0x0020 + 4 * i.val), blockWord b i)

theorem toList_block (b : Block) :
    b.toList = [b[0], b[1], b[2], b[3], b[4], b[5], b[6], b[7],
      b[8], b[9], b[10], b[11], b[12], b[13], b[14], b[15]] := by
  refine List.ext_getElem (by simp) fun i hi _ => ?_
  have hi : i < 16 := by simpa using hi
  rw [Vector.getElem_toList]
  interval_cases i <;> rfl

/-- WRB packs a block into the words of a 16-byte register (spec/30_encoding.md R102). -/
theorem packWords_key (b : Block) : packWords 0x0020 b.toList = some ((List.finRange 4).map (keyWrite b)) := by
  rw [toList_block]
  rfl

/-- KEY after words of b are written to it, in the order given. -/
def keyAfter (b : Block) (is : List (Fin 4)) (k : Block) : Block :=
  is.foldl (fun k i => setBlockWord k i (blockWord b i)) k

/-- A byte of KEY is that of b once its word is written. -/
theorem getElem_keyAfter (b : Block) (is : List (Fin 4)) (k : Block) {j : Nat} (hj : j < 16) :
    (keyAfter b is k)[j] = if (⟨j / 4, by omega⟩ : Fin 4) ∈ is then b[j] else k[j] := by
  induction is generalizing k with
  | nil => simp [keyAfter]
  | cons i is ih =>
    have hlane : byteLane (blockWord b i) (j % 4) = b[4 * i.val + j % 4] := byteLane_blockWord b i ⟨j % 4, by omega⟩
    rw [keyAfter, List.foldl_cons, ← keyAfter, ih, getElem_setBlockWord, hlane]
    by_cases hword : j / 4 = i.val
    · have hindex : 4 * i.val + j % 4 = j := by omega
      simp [hword, hindex]
    · simp [Fin.ext_iff, hword]

theorem keyAfter_all (b k : Block) : keyAfter b (List.finRange 4) k = b :=
  Vector.ext fun j hj => by rw [getElem_keyAfter b _ k hj, if_pos (List.mem_finRange _)]

theorem busTransaction_keyWrite {s : State} (hidle : s.busy = false) (b : Block) (i : Fin 4) :
    busTransaction (.write (keyWrite b i).1 (keyWrite b i).2) s =
      { s with
        key := setBlockWord s.key i (blockWord b i), rkValid := false
        responses := ⟨0, false⟩ :: s.responses } := by
  have ha : (keyWrite b i).1.toNat = 0x0020 + 4 * i.val := Nat.mod_eq_of_lt (by omega)
  have htarget : s.target (keyWrite b i).1 = some (.key i) := State.target_of_offset ha trivial
  rw [busTransaction, State.busWrite_of_writable htarget (.inl hidle), State.busWriteResponse_of_some htarget]
  rfl

/-- Writes of words of b to KEY on an idle machine, by induction on the writes. -/
theorem runBus_keyWrites (b : Block) (is : List (Fin 4)) {s : State} (hidle : s.busy = false) :
    ∃ rs, runBus ((is.map (keyWrite b)).map fun p => .write p.1 p.2) s =
      { s with key := keyAfter b is s.key, rkValid := s.rkValid && is.isEmpty, responses := rs } := by
  induction is generalizing s with
  | nil => exact ⟨s.responses, by simp [runBus, keyAfter]⟩
  | cons i is ih =>
    rw [List.map_cons, List.map_cons, runBus_cons, busTransaction_keyWrite hidle]
    obtain ⟨rs, e⟩ := ih (s := { s with
      key := setBlockWord s.key i (blockWord b i), rkValid := false, responses := ⟨0, false⟩ :: s.responses }) hidle
    exact ⟨rs, by rw [e]; simp [keyAfter]⟩

/-- Settles O6: WRB writes the four words of KEY, each from its own four bytes. -/
theorem wrbLoadsTheKey : Obligations.WrbLoadsTheKey := by
  intro s b hidle
  obtain ⟨rs, e⟩ := runBus_keyWrites b (List.finRange 4) hidle
  refine ⟨_, packWords_key b, rs, e.trans ?_⟩
  rw [keyAfter_all]
  simp

end Sys2Proof.Machine
